-- ==== Sys2Proof/Word.lean ====
section
/-! DEFINITION. The word sizes of the block: a storage byte, a 16-bit register field and a 32-bit bus or command
word (00_scope.md R8, R10). Everything is unsigned; nothing in the block is signed (R10). -/

namespace Sys2Proof

/-- One byte of BUF, BP or BPI. -/
abbrev Byte := BitVec 8

/-- A 16-bit field: LEN.VALUE, CSUM[15:0], KS[15:0], a CRYPT operand. -/
abbrev Half := BitVec 16

/-- A 32-bit word of the host bus, a register slot or a command. -/
abbrev Word := BitVec 32

end Sys2Proof
end

