-- ==== Sys2Proof/Syntax.lean ====
section
/-! DEFINITION. The command set (30_encoding.md R84): one constructor per row of the opcode table. -/

namespace Sys2Proof

/-- The eight commands. Operands have the widths R82 gives them after zero extension; which values a command word can
express is `Instr.wellFormed`. -/
inductive Instr where
  /-- R107 -/
  | nop
  /-- R121 -/
  | advance
  /-- R141: byte offsets into BUF; the region is [start, stop). -/
  | crypt (start stop : Half)
  /-- R162: the BP row to shuffle by. -/
  | shuffle (group : Byte)
  /-- R181 -/
  | checksum
  /-- R186 -/
  | refresh
  /-- R210 -/
  | encrypt
  /-- R220 -/
  | decrypt
deriving DecidableEq, Repr

end Sys2Proof
end

