-- ==== Sys2Proof/WellFormed.lean ====
section
/-! DEFINITION. Which commands a command word can express (30_encoding.md R82): CRYPT's operands come from 9-bit fields,
SHUFFLE's group from a 5-bit field. -/

namespace Sys2Proof

/-- R82: "A 9-bit field covers 0 to 0x1FF" and "The encoding cannot express a group of 32 or more". -/
def Instr.wellFormed : Instr → Bool
  | .nop => true
  | .advance => true
  | .crypt start stop => decide (start.toNat < 0x200) && decide (stop.toNat < 0x200)
  | .shuffle group => decide (group.toNat < 32)
  | .checksum => true
  | .refresh => true
  | .encrypt => true
  | .decrypt => true

end Sys2Proof
end

