-- ==== Sys2Proof/Decode.lean ====
section
/-! DEFINITION. The decoder and the encoder of command words (30_encoding.md R80-R90). -/

namespace Sys2Proof

/-- Why a word is ILLEGAL (R86). The block treats both alike (ILLEGAL_COMMAND, R232); the names are the model's, log
entry 14. -/
inductive IllegalWord where
  /-- an opcode 0x8 to 0xF -/
  | unassignedOpcode
  /-- an assigned opcode with a nonzero must-be-zero field -/
  | reservedField
deriving DecidableEq, Repr

/-- What the decoder answers for a word (R85): a command with its operands, or ILLEGAL. -/
inductive Decoded where
  | command (i : Instr)
  | illegal (why : IllegalWord)
deriving DecidableEq, Repr

/-- One row of the opcode map (R84): a word is this row's command iff `w &&& mask = pattern`. -/
structure OpcodeRow where
  mnemonic : String
  pattern : Word
  mask : Word
  /-- the command with its operands taken from the word (R82) -/
  command : Word → Instr

/-- The OP field, bits 3:0 (R81). -/
def opField (w : Word) : BitVec 4 := w.extractLsb' 0 4

/-- `start = zext_16(w[16:8])` (R82). -/
def startField (w : Word) : Half := (w.extractLsb' 8 9).setWidth 16

/-- `end = zext_16(w[25:17])` (R82). -/
def stopField (w : Word) : Half := (w.extractLsb' 17 9).setWidth 16

/-- `group = zext_8(w[12:8])` (R82). -/
def groupField (w : Word) : Byte := (w.extractLsb' 8 5).setWidth 8

/-- The opcode map of R84, row by row. -/
def opcodeTable : List OpcodeRow :=
  [ ⟨"NOP", 0x00000000, 0xFFFFFFFF, fun _ => .nop⟩,
    ⟨"ADVANCE", 0x00000001, 0xFFFFFFFF, fun _ => .advance⟩,
    ⟨"CRYPT", 0x00000002, 0xFC0000FF, fun w => .crypt (startField w) (stopField w)⟩,
    ⟨"SHUFFLE", 0x00000003, 0xFFFFE0FF, fun w => .shuffle (groupField w)⟩,
    ⟨"CHECKSUM", 0x00000004, 0xFFFFFFFF, fun _ => .checksum⟩,
    ⟨"REFRESH", 0x00000005, 0xFFFFFFFF, fun _ => .refresh⟩,
    ⟨"ENCRYPT", 0x00000006, 0xFFFFFFFF, fun _ => .encrypt⟩,
    ⟨"DECRYPT", 0x00000007, 0xFFFFFFFF, fun _ => .decrypt⟩ ]

/-- R84: does the word belong to the row? -/
def OpcodeRow.accepts (r : OpcodeRow) (w : Word) : Bool := w &&& r.mask == r.pattern

/-- Which of R86's two groups an illegal word falls into. -/
def illegalWordOf (w : Word) : IllegalWord :=
  if 8 ≤ (opField w).toNat then .unassignedOpcode else .reservedField

/-- R85: the decoder, total on 32-bit words. -/
def decode (w : Word) : Decoded :=
  match opcodeTable.find? (fun r => r.accepts w) with
  | some r => .command (r.command w)
  | none => .illegal (illegalWordOf w)

/-- R90: `enc(op, a, b)`. -/
def enc (op : BitVec 4) (a b : BitVec 9) : Word :=
  op.setWidth 32 ||| (a.setWidth 32 <<< 8) ||| (b.setWidth 32 <<< 17)

/-- The opcode of a command (R84). -/
def opcodeOf : Instr → BitVec 4
  | .nop => 0x0
  | .advance => 0x1
  | .crypt _ _ => 0x2
  | .shuffle _ => 0x3
  | .checksum => 0x4
  | .refresh => 0x5
  | .encrypt => 0x6
  | .decrypt => 0x7

/-- The A field of a command (R81, R82). -/
def fieldA : Instr → BitVec 9
  | .crypt start _ => start.setWidth 9
  | .shuffle group => group.setWidth 9
  | .nop | .advance | .checksum | .refresh | .encrypt | .decrypt => 0

/-- The B field of a command (R81, R82). -/
def fieldB : Instr → BitVec 9
  | .crypt _ stop => stop.setWidth 9
  | .shuffle _ | .nop | .advance | .checksum | .refresh | .encrypt | .decrypt => 0

/-- R88: the word of a command, `enc(M, ops)`. -/
def encode (i : Instr) : Word := enc (opcodeOf i) (fieldA i) (fieldB i)

/-- The command of an opcode-table word of `nbits` bits: every command is one 32-bit word (R80), so the bits above
`nbits` are zero. -/
def decodeTableWord (nbits w : Nat) : Option Instr :=
  match decode (BitVec.ofNat 32 (w % 2 ^ nbits)) with
  | .command i => some i
  | .illegal _ => none

end Sys2Proof
end

