-- ==== Sys2Proof/Config.lean ====
section
/-! DEFINITION. What the spec leaves open as parameters (00_scope.md R9, 20_memory.md R55): constants without a body,
so that no proof can learn a value of them. -/

namespace Sys2Proof.Config

/-- The byte that storage holds after a reset until something writes it: the parameters BUF0, BP0 and BPI0 of R9, as one
function of how many reset inputs have come before (0 at the first start) and of the host offset of the byte. The count is
an argument because R260 does not let a model assume that contents survive a reset. Free value; log entries 1 and 2. -/
opaque initByte (resets offset : Nat) : Byte

/-- CORE_BASE (R55): where the block's window sits in a system's address space. No rule reads it. Log entry 7. -/
opaque coreBase : Nat

end Sys2Proof.Config
end

