-- ==== Sys2Proof/Machine/State.lean ====
section
/-! DEFINITION. The state of the block (10_state.md), the host side the model carries beside it, and the state after
reset (10_state.md R41, 70_reset_and_hazards.md R260). -/

namespace Sys2Proof.Machine

/-- A reason for the machine to stop. There is none: 40_command_cycle.md R102, "Every outcome yields a next state: there
is no stuck or refused outcome", and every host access has a defined outcome (20_memory.md R56, R57). The block's own
faults are next states that record a `FaultCode`. Nobody raises one; safe. Log entry 10. -/
inductive Fault : Type
deriving DecidableEq, Repr

/-- A reason for the model to give an instruction no meaning. -/
inductive Refusal : Type where
  /-- For an arm of `exec` without a meaning. No arm of this model uses it, so nobody raises it; safe. -/
  | notModelled (mnemonic : String)
deriving DecidableEq, Repr

/-- The typed faults the block records in STATUS.FAULT (60_exceptions.md R230). -/
inductive FaultCode where
  | illegalCommand
  | invalidLength
  | indexOutOfRange
  | oddRegion
  | badTableEntry
deriving DecidableEq, Repr

/-- The outcome tag of a CMD write (40_command_cycle.md R102). -/
inductive CmdOutcome where
  | dropped
  | faulted
  | skipped
  | executed
deriving DecidableEq, Repr

/-- What the host can do to the block (20_memory.md R53, R67): write a word to a slot, read a slot, assert reset. A slot is
the word index of a host offset: the bus has 256 word slots and does not carry address bits 1:0 (R53). -/
inductive Transaction where
  | write (slot : BitVec 8) (data : Word)
  | read (slot : BitVec 8)
  | reset
deriving DecidableEq, Repr

/-- Storage (BUF, BP, BPI) as the bytes written since the last reset, keyed by host offset (20_memory.md R55), in the
canonical form `Memory.wf`. -/
abbrev Memory := List Host.Cell

/-- The state of the block and of the host script the model carries beside it. -/
structure State where
  /-- SEED, the LCG state (R23). -/
  seed : Word
  /-- KS[15:0]: HI in bits 15:8, LO in bits 7:0; KS[31:16] reads 0 (R24). -/
  ks : Half
  /-- CSUM[15:0]; CSUM[31:16] reads 0 (R25). -/
  csum : Half
  /-- SEL.SV, SEL[4:0] (R26). -/
  selSv : BitVec 5
  /-- SEL.GROUP, SEL[15:8] (R26). -/
  selGroup : Byte
  /-- LEN.VALUE, LEN[15:0] (R27). -/
  len : Half
  /-- STATUS.FAULT (R28, R29). -/
  fault : BitVec 4
  /-- STATUS.SKIP (R28, R31). -/
  skip : Bool
  /-- FINFO (R32). -/
  finfo : Word
  /-- BUF, BP and BPI (R36, R37, R38). -/
  mem : Memory
  /-- The model's own: how many reset inputs have come; it indexes the free contents of storage (log entry 2). -/
  resets : Nat
  /-- The model's own: the host transactions still to come (R106; log entry 3). -/
  script : List Transaction
  /-- The model's own: the words host reads have returned, oldest first (R53, R67; log entry 5). -/
  returned : List Word
  /-- The model's own: the outcome tag of the last CMD write (R102; log entry 4). -/
  outcome : Option CmdOutcome
deriving DecidableEq, Repr

/-- R41, R260: every register 0; LEN.VALUE 0, which is illegal; storage unwritten. -/
def State.reset : State where
  seed := 0
  ks := 0
  csum := 0
  selSv := 0
  selGroup := 0
  len := 0
  fault := 0
  skip := false
  finfo := 0
  mem := []
  resets := 0
  script := []
  returned := []
  outcome := none

end Sys2Proof.Machine
end

