-- ==== Sys2Proof/Machine/Ops.lean ====
section
/-! DEFINITION. The named operations over storage and registers: byte and word access to BUF, BP and BPI (00_scope.md
R13, 20_memory.md R50), raising a fault and clearing it (00_scope.md R14, 10_state.md R34), and the ways a command ends
(40_command_cycle.md R102). -/

namespace Sys2Proof.Machine

/-- The host offsets that are storage (20_memory.md R55): BUF, then BP and BPI, which adjoin. -/
def isStorage (a : Nat) : Bool := decide (a < 0x158) || (decide (0x200 ≤ a) && decide (a < 0x2A0))

/-- The canonical form of storage: addresses strictly rising, each of them a storage offset. An unlisted address holds no
value, so no entry can equal what an unlisted address holds. -/
abbrev Memory.wf (m : Memory) : Prop :=
  m.Pairwise (fun c d => c.1 < d.1) ∧ ∀ c ∈ m, isStorage c.1 = true

/-- The byte last written to an address, if any. -/
def memLookup : Memory → Nat → Option Byte
  | [], _ => none
  | (k, v) :: m, a => if k = a then some v else memLookup m a

/-- The cells of the bytes `vs` laid out from address `a` on. -/
def memCells (a : Nat) : List Byte → Memory
  | [] => []
  | v :: vs => if isStorage a then (a, v) :: memCells (a + 1) vs else memCells (a + 1) vs

/-- Storage with the bytes `vs` written at `a`, `a + 1`, ...; where no storage stands nothing is kept. -/
def memStore (m : Memory) (a : Nat) (vs : List Byte) : Memory :=
  m.filter (fun c => decide (c.1 < a)) ++ memCells a vs ++ m.filter (fun c => decide (a + vs.length ≤ c.1))

/-- The byte of storage at a host offset. A byte nothing has written since the last reset holds the free value of
`Config.initByte` (R9, R260; log entry 1). -/
def State.byte (s : State) (a : Nat) : Byte :=
  (memLookup s.mem a).getD (Config.initByte s.resets a)

/-- The written mask that 70_reset_and_hazards.md R262 allows beside BUF, BP and BPI: has something written this byte since
the last reset? -/
def State.written (s : State) (a : Nat) : Bool := (memLookup s.mem a).isSome

/-- The bytes of [a, a + n). -/
def State.loadBytes (s : State) (a n : Nat) : List Byte := (List.range' a n).map s.byte

/-- Writes the bytes `vs` from offset `a` on. -/
def State.storeBytes (s : State) (a : Nat) (vs : List Byte) : State :=
  { s with mem := memStore s.mem a vs }

/-- Bytes as a little-endian number, lowest byte first (R13). -/
def littleEndian : List Byte → Word
  | [] => 0
  | b :: bs => b.setWidth 32 + (littleEndian bs <<< 8)

/-- `MemRead(a, n)` (R13). -/
def State.memRead (s : State) (a n : Nat) : Word := littleEndian (s.loadBytes a n)

/-- The `n` low bytes of a word, lowest first: byte k is `v[8k+7 : 8k]` (R13). -/
def wordBytes (n : Nat) (v : Word) : List Byte := (List.range n).map (fun k => v.extractLsb' (8 * k) 8)

/-- `MemWrite(a, n, v)` (R13). -/
def State.memWrite (s : State) (a n : Nat) (v : Word) : State := s.storeBytes a (wordBytes n v)

/-- The code of a fault in STATUS.FAULT (60_exceptions.md R230). -/
def FaultCode.code : FaultCode → BitVec 4
  | .illegalCommand => 1
  | .invalidLength => 2
  | .indexOutOfRange => 3
  | .oddRegion => 4
  | .badTableEntry => 5

/-- `raise F(info)` (R14, R241): STATUS.FAULT and FINFO, and no other state. This is the block's taking of an exception:
no mode changes and no control is transferred (R241). -/
def State.raise (s : State) (f : FaultCode) (info : Word) : State :=
  { s with fault := f.code, finfo := info, outcome := some .faulted }

/-- A CTRL write with FCLR = 1 (R34, R242): the return from a fault. -/
def State.clearFault (s : State) : State := { s with fault := 0, finfo := 0 }

/-- The end of an executed command's body: SKIP <- 0 (R31, R102). -/
def State.complete (s : State) : State := { s with skip := false, outcome := some .executed }

/-- A skipped ENCRYPT or DECRYPT: SKIP <- 1 and nothing else (R31, R102). -/
def State.skipCommand (s : State) : State := { s with skip := true, outcome := some .skipped }

/-- A dropped command: no state of the block changes (R101). -/
def State.dropCommand (s : State) : State := { s with outcome := some .dropped }

/-- The reset input (R260): every register at its reset value, and storage unspecified again, with contents of which
nothing is known from before. The host's side of the model is not reset (log entry 11). -/
def State.resetBlock (s : State) : State :=
  { State.reset with resets := s.resets + 1, script := s.script, returned := s.returned }

end Sys2Proof.Machine
end

