-- ==== Sys2Proof/Machine/Operands.lean ====
section
/-! DEFINITION. The operands of the commands: the implicit ones (30_encoding.md R83, 00_scope.md R15), the tables
(10_state.md R37, R38), and the fault information words made from operands (60_exceptions.md R231). -/

namespace Sys2Proof.Machine

/-- `LENOK` (R15). -/
def State.lenOk (s : State) : Bool := s.len == 0x148 || s.len == 0x158

/-- `CEND`, the end of the ciphered span (R15). -/
def State.cend (s : State) : Nat := if s.len = 0x158 then 0x158 else 0x148

/-- `EC = MemRead(0x0, 4)` (R15). -/
def State.ec (s : State) : Word := s.memRead 0x0 4

/-- `SV(ec) = (ec >> 13) & 0x1F`, which is `ec[17:13]` (R15). -/
def selector (ec : Word) : BitVec 5 := ec.extractLsb' 13 5

/-- `BP[k]`, at host offset 0x200 + k (R37). -/
def State.bp (s : State) (k : Nat) : Byte := s.byte (0x200 + k)

/-- `BPI[k]`, at host offset 0x280 + k (R38). -/
def State.bpi (s : State) (k : Nat) : Byte := s.byte (0x280 + k)

/-- FINFO of INVALID_LENGTH: `zext_32(LEN.VALUE)` (R231). -/
def lengthInfo (len : Half) : Word := len.setWidth 32

/-- FINFO of INDEX_OUT_OF_RANGE and ODD_REGION: `{end[15:0], start[15:0]}` (R231). -/
def rangeInfo (start stop : Half) : Word := stop ++ start

/-- FINFO of BAD_TABLE_ENTRY: value in 23:16, table in 15:8 (0x00 BP, 0x01 BPI), index in 7:0 (R231). -/
def tableInfo (value table index : Byte) : Word := (value ++ table ++ index).setWidth 32

/-- The length test of the buffer commands fails: INVALID_LENGTH (R100, R233). -/
def State.raiseInvalidLength (s : State) : State := s.raise .invalidLength (lengthInfo s.len)

end Sys2Proof.Machine
end

