-- ==== Sys2Proof/Machine/Flags.lean ====
section
/-! DEFINITION. The status indications (10_state.md R28-R31, R35): the live heuristic ENC, and the STATUS word that the
host reads. SKIP and FAULT are written by the command endings of Machine/Ops.lean. -/

namespace Sys2Proof.Machine

/-- `ENCFLAG = (BUF[0x70] != 0) and (BUF[0xC0] != 0)` (R200, R30): computed, never stored, for any LEN. -/
def State.encFlag (s : State) : Bool := s.byte 0x70 != 0 && s.byte 0xC0 != 0

/-- STATUS as the host reads it (R28): FAULT in 3:0, ENC in bit 8, SKIP in bit 9, all other bits 0. -/
def State.statusWord (s : State) : Word :=
  (BitVec.ofBool s.skip ++ BitVec.ofBool s.encFlag ++ (0 : BitVec 4) ++ s.fault).setWidth 32

/-- SEL as the host reads it (R26): GROUP in 15:8, SV in 4:0, all other bits 0. -/
def State.selWord (s : State) : Word := (s.selGroup ++ (0 : BitVec 3) ++ s.selSv).setWidth 32

end Sys2Proof.Machine
end

