-- ==== Sys2Proof/Machine/Checksum.lean ====
section
/-! DEFINITION. The checksum accumulator, CHECKSUM and REFRESH (44_checksum.md R180-R186). -/

namespace Sys2Proof.Machine

/-- `checksum()` (R180): the 16-bit sum of the little-endian words at every even offset of [0x8, 0x148). -/
def State.checksum (s : State) : Half :=
  (List.range' 0x8 0xA0 2).foldl (fun acc i => acc + (s.memRead i 2).setWidth 16) 0

/-- The document's `refresh_checksum` with the sum `c` (R186): the checksum field at 0x6. -/
def State.writeChecksum (s : State) (c : Half) : State := s.memWrite 0x6 2 (c.setWidth 32)

/-- CHECKSUM (R181). -/
def execChecksum (s : State) : Host.Outcome State Fault Refusal :=
  if s.lenOk = false then .next s.raiseInvalidLength
  else .next { s with csum := s.checksum }.complete

/-- REFRESH (R186). -/
def execRefresh (s : State) : Host.Outcome State Fault Refusal :=
  if s.lenOk = false then .next s.raiseInvalidLength
  else .next { s.writeChecksum s.checksum with csum := s.checksum }.complete

end Sys2Proof.Machine
end

