-- ==== Sys2Proof/Machine/Keystream.lean ====
section
/-! DEFINITION. The keystream generator and ADVANCE (41_keystream.md R120-R124). -/

namespace Sys2Proof.Machine

/-- `LCG(s) = (s * 0x41C64E6D + 0x6073) mod 2^32` (R120). The literals stand left of the variable because the kernel, when
it compares terms, counts down a literal that stands on the right. -/
def lcg (s : Word) : Word := 0x6073 + 0x41C64E6D * s

/-- `byte_lo(s') = s'[23:16]` (R120). -/
def byteLo (s : Word) : Byte := s.extractLsb' 16 8

/-- `byte_hi(s') = s'[31:24]` (R120). -/
def byteHi (s : Word) : Byte := s.extractLsb' 24 8

/-- ADVANCE (R121): one LCG step, with the two bytes of the NEW state in KS. It does not test LEN. -/
def execAdvance (s : State) : Host.Outcome State Fault Refusal :=
  let next := lcg s.seed
  .next { s with seed := next, ks := byteHi next ++ byteLo next }.complete

end Sys2Proof.Machine
end

