-- ==== Sys2Proof/Machine/Cipher.lean ====
section
/-! DEFINITION. The region cipher and CRYPT (42_cipher.md R140-R143). -/

namespace Sys2Proof.Machine

/-- `crypt_region` on the bytes of a region (R140): one LCG step per pair, `byte_lo` to the lower offset and `byte_hi` to
the next; the first component is the final LCG state. Each byte is read before it is written and written once, so the loop
over the buffer is this function of the region's old bytes (log entry 9). -/
def cipherBytes : Word → List Byte → Word × List Byte
  | seed, lo :: hi :: rest =>
    let next := lcg seed
    let tail := cipherBytes next rest
    (tail.1, (lo ^^^ byteLo next) :: (hi ^^^ byteHi next) :: tail.2)
  | seed, rest => (seed, rest)

/-- `crypt_region(seed, start, end)` on BUF (R140): the final LCG state, and the state with the region ciphered. -/
def State.cryptRegion (s : State) (seed : Word) (start stop : Nat) : Word × State :=
  let r := cipherBytes seed (s.loadBytes start (stop - start))
  (r.1, s.storeBytes start r.2)

/-- CRYPT (R141), with its checks in the order LEN, range, oddness (R103). -/
def execCrypt (start stop : Half) (s : State) : Host.Outcome State Fault Refusal :=
  if s.lenOk = false then .next s.raiseInvalidLength
  else if stop < start ∨ s.len < stop then .next (s.raise .indexOutOfRange (rangeInfo start stop))
  else if (stop.toNat - start.toNat) % 2 ≠ 0 then .next (s.raise .oddRegion (rangeInfo start stop))
  else
    let r := s.cryptRegion s.seed start.toNat stop.toNat
    .next { r.2 with seed := r.1 }.complete

end Sys2Proof.Machine
end

