-- ==== Sys2Proof/Machine/Control.lean ====
section
/-! DEFINITION. The command that belongs to no component: NOP (40_command_cycle.md R107). -/

namespace Sys2Proof.Machine

/-- NOP (R107): SKIP <- 0. It does not test LEN. -/
def execNop (s : State) : Host.Outcome State Fault Refusal := .next s.complete

end Sys2Proof.Machine
end

