-- ==== Sys2Proof/Machine/Shuffle.lean ====
section
/-! DEFINITION. The block permutation engine and SHUFFLE (43_shuffle.md R160-R163). -/

namespace Sys2Proof.Machine

/-- The four source block numbers of BP row `g` (R160). -/
def State.row (s : State) (g : Nat) : List Nat := (List.range 4).map (fun k => (s.bp (4 * g + k)).toNat)

/-- `check_row(g)` (R161): the information word of the first entry above 3, in rising order, if there is one. -/
def State.checkRow (s : State) (g : Nat) : Option Word :=
  ((List.range 4).find? (fun k => decide (3 < (s.bp (4 * g + k)).toNat))).map
    (fun k => tableInfo (s.bp (4 * g + k)) 0x00 (BitVec.ofNat 8 (4 * g + k)))

/-- The body whose destination blocks are the 0x50-byte blocks of `snap` that `sources` names (R160). -/
def permuteBlocks (snap : List Byte) (sources : List Nat) : List Byte :=
  sources.flatMap (fun b => (snap.drop (0x50 * b)).take 0x50)

/-- `shuffle(g)` (R160): every block is copied from a snapshot of the body taken before any write (R39). -/
def State.shuffleBody (s : State) (g : Nat) : State :=
  s.storeBytes 0x8 (permuteBlocks (s.loadBytes 0x8 0x140) (s.row g))

/-- SHUFFLE (R162). -/
def execShuffle (group : Byte) (s : State) : Host.Outcome State Fault Refusal :=
  if s.lenOk = false then .next s.raiseInvalidLength
  else
    match s.checkRow group.toNat with
    | some info => .next (s.raise .badTableEntry info)
    | none => .next (s.shuffleBody group.toNat).complete

end Sys2Proof.Machine
end

