-- ==== Sys2Proof/Machine/Transform.lean ====
section
/-! DEFINITION. The record transform: ENCRYPT and DECRYPT (45_transform.md R200-R227). -/

namespace Sys2Proof.Machine

/-- The cipher pass of ENCRYPT and DECRYPT (R210 step 7, R220 step 3): [0x8, 0x148), and with LEN.VALUE = 0x158 the extra
block [0x148, 0x158) on the same keystream, continued. -/
def State.cipherPass (s : State) (seed : Word) : Word × State :=
  let r := s.cryptRegion seed 0x8 0x148
  if s.len = 0x158 then r.2.cryptRegion r.1 0x148 0x158 else r

/-- ENCRYPT's checks of its tables (R210, R211, R239): the BPI entry first, then the BP row it names. -/
def State.checkEncryptTables (s : State) (sv : BitVec 5) : Option Word :=
  if 31 < (s.bpi sv.toNat).toNat then some (tableInfo (s.bpi sv.toNat) 0x01 (sv.setWidth 8))
  else s.checkRow (s.bpi sv.toNat).toNat

/-- The body of an executed ENCRYPT (R210 steps 2, 6 and 7, R211). -/
def State.encryptBody (s : State) : State :=
  let ec := s.ec
  let sv := selector ec
  let g := s.bpi sv.toNat
  let c := s.checksum
  let r := ((s.writeChecksum c).shuffleBody g.toNat).cipherPass ec
  { r.2 with csum := c, seed := r.1, selSv := sv, selGroup := g }

/-- ENCRYPT (R210). -/
def execEncrypt (s : State) : Host.Outcome State Fault Refusal :=
  if s.lenOk = false then .next s.raiseInvalidLength
  else if s.encFlag then .next s.skipCommand
  else
    match s.checkEncryptTables (selector s.ec) with
    | some info => .next (s.raise .badTableEntry info)
    | none => .next s.encryptBody.complete

/-- The body of an executed DECRYPT (R220 steps 3 and 4, R221): cipher first, then shuffle by the raw selector's row. -/
def State.decryptBody (s : State) : State :=
  let ec := s.ec
  let sv := selector ec
  let r := s.cipherPass ec
  { r.2.shuffleBody sv.toNat with seed := r.1, selSv := sv, selGroup := sv.setWidth 8 }

/-- DECRYPT (R220). -/
def execDecrypt (s : State) : Host.Outcome State Fault Refusal :=
  if s.lenOk = false then .next s.raiseInvalidLength
  else if s.encFlag = false then .next s.skipCommand
  else
    match s.checkRow (selector s.ec).toNat with
    | some info => .next (s.raise .badTableEntry info)
    | none => .next s.decryptBody.complete

end Sys2Proof.Machine
end

