-- ==== Sys2Proof/Machine/Dispatch.lean ====
section
/-! DEFINITION. The meaning of a decoded command (40_command_cycle.md R100, "execute r.mnemonic with its operands"): the
command has passed the drop test and decoding, which `issue` in Machine/HostBus.lean makes before it. -/

namespace Sys2Proof.Machine

def exec (i : Instr) (s : State) : Host.Outcome State Fault Refusal :=
  match i with
  | .nop => Sys2Proof.Machine.execNop s
  | .advance => Sys2Proof.Machine.execAdvance s
  | .crypt start stop => Sys2Proof.Machine.execCrypt start stop s
  | .shuffle group => Sys2Proof.Machine.execShuffle group s
  | .checksum => Sys2Proof.Machine.execChecksum s
  | .refresh => Sys2Proof.Machine.execRefresh s
  | .encrypt => Sys2Proof.Machine.execEncrypt s
  | .decrypt => Sys2Proof.Machine.execDecrypt s

end Sys2Proof.Machine
end

