-- ==== Sys2Proof/Machine/HostBus.lean ====
section
/-! DEFINITION. The host bus (20_memory.md R53-R67) and the command cycle (40_command_cycle.md R100-R103): what each host
transaction does. -/

namespace Sys2Proof.Machine

/-- What stands at a word slot of the window (20_memory.md R55). -/
inductive Target where
  /-- a word of BUF, BP or BPI, by its host offset -/
  | storage (offset : Nat)
  | cmd
  | status
  | ctrl
  | finfo
  | len
  | seed
  | ks
  | csum
  | sel
  | reserved
deriving DecidableEq, Repr

/-- The byte offset of a slot (R53). -/
def slotOffset (slot : BitVec 8) : Nat := 4 * slot.toNat

/-- The slot of a byte offset; address bits 1:0 are not carried (R53). -/
def slotAt (offset : Nat) : BitVec 8 := BitVec.ofNat 8 (offset / 4)

/-- The address map of the window (R55). -/
def targetOf (slot : BitVec 8) : Target :=
  let a := slotOffset slot
  if isStorage a then .storage a
  else if a = 0x300 then .cmd
  else if a = 0x304 then .status
  else if a = 0x308 then .ctrl
  else if a = 0x30C then .finfo
  else if a = 0x310 then .len
  else if a = 0x314 then .seed
  else if a = 0x318 then .ks
  else if a = 0x31C then .csum
  else if a = 0x320 then .sel
  else .reserved

/-- The address of a slot in a system whose platform puts the window at CORE_BASE (R55). -/
def systemAddress (slot : BitVec 8) : Nat := Config.coreBase + slotOffset slot

/-- The word a host read returns (R51, R56, R57): write-only ports and reserved offsets read 0, unused bits read 0. -/
def State.hostRead (s : State) : Target → Word
  | .storage a => s.memRead a 4
  | .cmd => 0
  | .status => s.statusWord
  | .ctrl => 0
  | .finfo => s.finfo
  | .len => s.len.setWidth 32
  | .seed => s.seed
  | .ks => s.ks.setWidth 32
  | .csum => s.csum.setWidth 32
  | .sel => s.selWord
  | .reserved => 0

/-- A host write to anything but CMD (R34, R57, R58): storage, LEN and SEED store the data, CTRL with FCLR = 1 clears the
fault, and nothing else changes. CMD is a port: `transact` issues its word. -/
def State.hostWrite (s : State) (t : Target) (d : Word) : State :=
  match t with
  | .storage a => s.memWrite a 4 d
  | .len => { s with len := d.setWidth 16 }
  | .seed => { s with seed := d }
  | .ctrl => if d.getLsbD 0 then s.clearFault else s
  | .cmd | .status | .finfo | .ks | .csum | .sel | .reserved => s

/-- Issuing the command word `w` (R100, R101, R103): dropped while FAULT is nonzero; then decoded; an illegal word raises
ILLEGAL_COMMAND; otherwise the command runs. -/
def issue (w : Word) (s : State) : Host.Outcome State Fault Refusal :=
  if s.fault ≠ 0 then .next s.dropCommand
  else
    match decode w with
    | .illegal _ => .next (s.raise .illegalCommand w)
    | .command i => exec i s

/-- One host transaction, to completion (R20, R53, R67). -/
def transact (t : Transaction) (s : State) : Host.Outcome State Fault Refusal :=
  match t with
  | .write slot d =>
    match targetOf slot with
    | .cmd => issue d s
    | target => .next (s.hostWrite target d)
  | .read slot => .next { s with returned := s.returned ++ [s.hostRead (targetOf slot)] }
  | .reset => .next s.resetBlock

/-- The next transaction of the host's script; with none left the block is idle and keeps all state (R106, R248, R261). -/
def busStep (s : State) : Host.Outcome State Fault Refusal :=
  match s.script with
  | [] => .next s
  | t :: rest => transact t { s with script := rest }

end Sys2Proof.Machine
end

