-- ==== Sys2Proof/Machine/Script.lean ====
section
/-! DEFINITION. Host scripts (30_encoding.md R88, R89): the lines of a program and its pseudo-instructions, as the lists of
transactions they stand for. -/

namespace Sys2Proof.Machine

/-- `WR offset, word` (R88). -/
def scriptWrite (offset : Nat) (d : Word) : Transaction := .write (slotAt offset) d

/-- `RD offset` (R88). -/
def scriptRead (offset : Nat) : Transaction := .read (slotAt offset)

/-- A command line `M ops` means `WR CMD, enc(M, ops)` (R88). -/
def scriptCommand (i : Instr) : Transaction := scriptWrite 0x300 (encode i)

/-- `LDSEED v` (R89). -/
def ldSeed (v : Word) : Transaction := scriptWrite 0x314 v

/-- `SETLEN v` (R89). -/
def setLen (v : Word) : Transaction := scriptWrite 0x310 v

/-- `CLRFAULT` (R89). -/
def clrFault : Transaction := scriptWrite 0x308 0x00000001

/-- `CRYPTBODY` (R89). -/
def cryptBody : Transaction := scriptCommand (.crypt 0x8 0x148)

/-- `CRYPTEXTRA` (R89). -/
def cryptExtra : Transaction := scriptCommand (.crypt 0x148 0x158)

/-- `ENCSTEPS g` (R89), for a host that reads `ec` back in its second line and ends the span at `cend`. -/
def encSteps (g : Byte) (ec : Word) (cend : Half) : List Transaction :=
  [scriptCommand .refresh, scriptRead 0x000, ldSeed ec, scriptCommand (.shuffle g), scriptCommand (.crypt 0x8 cend)]

end Sys2Proof.Machine
end

