-- ==== Sys2Proof/Machine/Step.lean ====
section
/-! DEFINITION. One step of the machine: the next host transaction, to completion (10_state.md R20). -/

namespace Sys2Proof.Machine

/-- One step (R20, R53, R106); all it does stands in Machine/HostBus.lean. -/
def step (s : State) : Host.Outcome State Fault Refusal := busStep s

/-- The state with the command word `w` as the host's next transaction, a write to CMD, and FAULT clear so that the command
is not dropped (R101). The block fetches nothing (R65): a command comes from the host's script. Log entry 3. -/
def State.withFetchWord (s : State) (nbits w : Nat) : State :=
  { s.clearFault with script := scriptWrite 0x300 (BitVec.ofNat 32 (w % 2 ^ nbits)) :: s.script }

end Sys2Proof.Machine
end

