-- ==== Sys2Proof/Safety.lean ====
section
/-! DEFINITION. The terms of the claims: the invariant of the block, runs of a host script, and the quantities of the
spec's rules that claims compare the commands with. -/

namespace Sys2Proof.Machine

/-- A word that no row of the opcode map accepts (30_encoding.md R85). -/
def IsIllegal (w : Word) : Prop := ∀ i, decode w ≠ .command i

/-- A command without operands has one word, and every other word with its opcode is illegal (30_encoding.md R84, R86). -/
def OnlyWord (i : Instr) (word : Word) : Prop :=
  (∀ w, decode w = .command i ↔ w = word) ∧ ∀ w, w.toNat % 16 = word.toNat % 16 → w ≠ word → IsIllegal w

/-- FINFO fits the fault that STATUS.FAULT records (60_exceptions.md R230, R231): 0 without a fault; an illegal word; an
illegal length; a region that is reversed or ends beyond the smaller legal length; a region of odd length within the
buffer; an entry of BP above 3, or of BPI above 31. Codes 6 to 15 are never written (10_state.md R29). -/
def FaultRecord (fault : BitVec 4) (finfo : Word) : Prop :=
  (fault = 0 ∧ finfo = 0) ∨
  (fault = 1 ∧ IsIllegal finfo) ∨
  (fault = 2 ∧ finfo.toNat < 0x10000 ∧ finfo ≠ 0x148 ∧ finfo ≠ 0x158) ∨
  (∃ start stop : Nat, fault = 3 ∧ start < 0x200 ∧ stop < 0x200 ∧ (stop < start ∨ 0x148 < stop) ∧
    finfo.toNat = stop * 0x10000 + start) ∨
  (∃ start stop : Nat, fault = 4 ∧ start ≤ stop ∧ stop ≤ 0x158 ∧ (stop - start) % 2 = 1 ∧
    finfo.toNat = stop * 0x10000 + start) ∨
  (∃ value index : Nat, fault = 5 ∧ 3 < value ∧ value < 0x100 ∧ index < 128 ∧ finfo.toNat = value * 0x10000 + index) ∨
  (∃ value index : Nat, fault = 5 ∧ 31 < value ∧ value < 0x100 ∧ index < 32 ∧
    finfo.toNat = value * 0x10000 + 0x100 + index)

/-- What every step of the machine keeps. -/
structure Invariant (s : State) : Prop where
  /-- storage is in its canonical form -/
  storage : Memory.wf s.mem
  /-- STATUS.FAULT is a code of R230, and FINFO is that fault's information -/
  fault : FaultRecord s.fault s.finfo
  /-- SEL.GROUP is a group, an index in [0, 32) (00_scope.md R16, 10_state.md R26) -/
  group : s.selGroup.toNat < 32

/-- The host has written BUF and both tables (70_reset_and_hazards.md R262: "tables written" and "BUF written"). -/
def StorageWritten (s : State) : Prop := ∀ a, isStorage a = true → s.written a = true

/-- `k` steps of the machine. -/
def runFor (k : Nat) (s : State) : Host.Outcome State Fault Refusal := Sys2Proof.core.run k s

/-- The host transactions that set STATUS.FAULT back to 0 (10_state.md R29): a CTRL write with FCLR = 1, and reset. -/
def clearsFault : Transaction → Bool
  | .write slot d => decide (slotOffset slot = 0x308) && d.getLsbD 0
  | .read _ => false
  | .reset => true

/-- Byte `k` of the keystream from `seed` (41_keystream.md R120, R122): two bytes of every new LCG state, low byte first. -/
def keystreamByte (seed : Word) (k : Nat) : Byte :=
  let x := lcg^[k / 2 + 1] seed
  if k % 2 = 0 then x.extractLsb' 16 8 else x.extractLsb' 24 8

/-- The exact sum of the 0xA0 little-endian words of the body (44_checksum.md R180, R182). -/
def bodySum (s : State) : Nat :=
  ((List.range 0xA0).map fun j => (s.byte (0x8 + 2 * j)).toNat + 0x100 * (s.byte (0x8 + 2 * j + 1)).toNat).sum

/-- Source block `b` of BP row `g` (43_shuffle.md R160). -/
def sourceBlock (s : State) (g b : Nat) : Nat := (s.byte (0x200 + 4 * g + b)).toNat

/-- BP row `g` has every entry in [0, 3] (43_shuffle.md R161). -/
def RowInRange (s : State) (g : Nat) : Prop := ∀ k < 4, sourceBlock s g k ≤ 3

/-- BP row `g` is a permutation of {0, 1, 2, 3} (10_state.md R37). -/
def RowIsPermutation (s : State) (g : Nat) : Prop :=
  RowInRange s g ∧ ∀ j < 4, ∀ k < 4, sourceBlock s g j = sourceBlock s g k → j = k

/-- Shuffling by row `p` and then by row `q` brings every block back (45_transform.md R225 premise (4)). -/
def RowsCancel (s : State) (p q : Nat) : Prop := ∀ b < 4, sourceBlock s p (sourceBlock s q b) = b

/-- The Encounter Constant as a number (00_scope.md R15, 20_memory.md R50). -/
def ecValue (s : State) : Nat :=
  (s.byte 0).toNat + 0x100 * (s.byte 1).toNat + 0x10000 * (s.byte 2).toNat + 0x1000000 * (s.byte 3).toNat

/-- The shuffle selector, EC[17:13] (00_scope.md R15). -/
def svValue (s : State) : Nat := ecValue s / 2 ^ 13 % 32

/-- The group ENCRYPT shuffles by: `BPI[sv]` (45_transform.md R210). -/
def groupValue (s : State) : Nat := (s.byte (0x280 + svValue s)).toNat

end Sys2Proof.Machine
end

