-- ==== Sys2Proof/Certificates/Slice0/Obligations.lean ====
section
/-! DEFINITION. The statements for the provers. Each docstring cites the rule of spec/ it formalises; where a clause is
the model's own choice, the docstring names its log entry. In every statement the host's transactions stand in
`script`, the words it reads in `returned` and the outcome tag in `outcome`: the model's forms, log entries 3, 5 and 4. -/

open Sys2Proof Sys2Proof.Machine

/-! ### Encoding -/

/-- R84, R90: a well-formed command's word decodes to that command, every operand at every value. -/
def Obligations.DecodeEncodeRoundTrip : Prop :=
  ∀ i : Instr, i.wellFormed = true → decode (encode i) = .command i

/-- R82, R84, R90: whatever decodes is a well-formed command, and its word is the one the encoder gives. -/
def Obligations.EncodeDecodeRoundTrip : Prop :=
  ∀ (w : Word) (i : Instr), decode w = .command i → i.wellFormed = true ∧ encode i = w

/-- R84: a word is the command of a row iff it has the row's pattern under the row's mask; operands as in R82. -/
def Obligations.DecodeFollowsOpcodeMap : Prop :=
  ∀ (w : Word) (i : Instr), decode w = .command i ↔
    (w &&& 0xFFFFFFFF = 0x00000000 ∧ i = .nop) ∨
    (w &&& 0xFFFFFFFF = 0x00000001 ∧ i = .advance) ∨
    (w &&& 0xFC0000FF = 0x00000002 ∧
      i = .crypt (BitVec.ofNat 16 (w.toNat / 2 ^ 8 % 2 ^ 9)) (BitVec.ofNat 16 (w.toNat / 2 ^ 17 % 2 ^ 9))) ∨
    (w &&& 0xFFFFE0FF = 0x00000003 ∧ i = .shuffle (BitVec.ofNat 8 (w.toNat / 2 ^ 8 % 2 ^ 5))) ∨
    (w &&& 0xFFFFFFFF = 0x00000004 ∧ i = .checksum) ∨
    (w &&& 0xFFFFFFFF = 0x00000005 ∧ i = .refresh) ∨
    (w &&& 0xFFFFFFFF = 0x00000006 ∧ i = .encrypt) ∨
    (w &&& 0xFFFFFFFF = 0x00000007 ∧ i = .decrypt)

/-- R90's table of encodings, each word decoded and encoded. -/
def Obligations.TabledWordsDecode : Prop :=
  ∀ p ∈ [((0x00000000 : Word), Instr.nop), (0x00000001, .advance), (0x02900802, .crypt 0x8 0x148),
      (0x02B14802, .crypt 0x148 0x158), (0x00180802, .crypt 0x8 0xC), (0x00000903, .shuffle 9),
      (0x00001403, .shuffle 20), (0x00000004, .checksum), (0x00000005, .refresh), (0x00000006, .encrypt),
      (0x00000007, .decrypt)],
    decode p.1 = .command p.2 ∧ encode p.2 = p.1

/-- R86, R232: opcodes 0x8 to 0xF, and words with an assigned opcode whose must-be-zero fields are not all zero, raise
ILLEGAL_COMMAND with the word as information, whatever LEN holds. The script form is log entry 3. -/
def Obligations.IllegalWordsFault : Prop :=
  ∀ (s : State) (w : Word) (rest : List Transaction),
    s.script = .write (slotAt 0x300) w :: rest → s.fault = 0 →
    (8 ≤ w.toNat % 16 ∨
      (w.toNat % 16 = 2 ∧ w &&& 0xFC0000F0 ≠ 0) ∨
      (w.toNat % 16 = 3 ∧ w &&& 0xFFFFE0F0 ≠ 0) ∨
      (w.toNat % 16 ∈ [0, 1, 4, 5, 6, 7] ∧ w &&& 0xFFFFFFF0 ≠ 0)) →
    step s = .next { s with script := rest, fault := 1, finfo := w, outcome := some .faulted }

/-! ### The command cycle and the host bus -/

/-- R100, R85: with FAULT clear, a CMD write of a word that decodes runs the decoded command, and the step adds nothing
but taking the transaction off the script (log entry 3). -/
def Obligations.StepRunsDecodedCommand : Prop :=
  ∀ (s : State) (w : Word) (rest : List Transaction) (i : Instr),
    s.script = .write (slotAt 0x300) w :: rest → s.fault = 0 → decode w = .command i →
    step s = exec i { s with script := rest }

/-- R101: while FAULT is nonzero, a CMD write of any word changes no state of the block; host reads, and host writes of
other offsets, are what they are without a fault. -/
def Obligations.CommandDroppedWhileFaulted : Prop :=
  ∀ (s : State) (rest : List Transaction), s.fault ≠ 0 →
    (∀ w, s.script = .write (slotAt 0x300) w :: rest →
      step s = .next { s with script := rest, outcome := some .dropped }) ∧
    (∀ slot d, slot ≠ slotAt 0x300 → s.script = .write slot d :: rest →
      step s = .next (State.hostWrite { s with script := rest } (targetOf slot) d)) ∧
    (∀ slot, s.script = .read slot :: rest →
      step s = .next { s with script := rest, returned := s.returned ++ [s.hostRead (targetOf slot)] })

/-- R102: every CMD write ends in a next state with exactly one of the four outcomes, and each outcome changes no more
than the rule says; only the words of ENCRYPT and DECRYPT are ever skipped. -/
def Obligations.CommandOutcomes : Prop :=
  ∀ (s : State) (w : Word) (rest : List Transaction),
    s.script = .write (slotAt 0x300) w :: rest →
    ∃ t, step s = .next t ∧
      ((s.fault ≠ 0 ∧ t = { s with script := rest, outcome := some .dropped }) ∨
       (s.fault = 0 ∧ t.fault ≠ 0 ∧
        t = { s with script := rest, fault := t.fault, finfo := t.finfo, outcome := some .faulted }) ∨
       (s.fault = 0 ∧ (w = 6 ∨ w = 7) ∧ t = { s with script := rest, skip := true, outcome := some .skipped }) ∨
       (s.fault = 0 ∧ (∃ i, decode w = .command i) ∧ t.outcome = some .executed ∧ t.skip = false ∧
        t.fault = 0 ∧ t.finfo = s.finfo ∧ t.len = s.len ∧ t.script = rest))

/-- R102, R57: every transaction of the host ends in a next state, and takes itself off the script (log entry 3). -/
def Obligations.EveryStepAnswersNext : Prop :=
  ∀ s : State, ∃ t, step s = .next t ∧ t.script = s.script.tail

/-- R106, R248: with no transaction left the block keeps all state. The script is the model's form (log entry 3). -/
def Obligations.IdleKeepsState : Prop :=
  ∀ s : State, s.script = [] → step s = .next s

/-- R106, R105: a run of a finite script comes to the state after its last transaction. -/
def Obligations.ScriptRunsToItsEnd : Prop :=
  ∀ s : State, ∃ t, runFor s.script.length s = .next t ∧ t.script = []

/-- R106: from FAULT = 0, in a script without a fault-clearing CTRL write or a reset, FAULT = 0 at the end says exactly that
no command of the run faulted. -/
def Obligations.NoFaultAtTheEndMeansNoFault : Prop :=
  ∀ s t : State, (∀ x ∈ s.script, clearsFault x = false) → runFor s.script.length s = .next t →
    s.fault = 0 →
    (t.fault = 0 ↔ ∀ k < s.script.length, ∀ (u : State) (w : Word) (rest : List Transaction), runFor k s = .next u →
      u.script = .write (slotAt 0x300) w :: rest → ∃ v, step u = .next v ∧ v.outcome ≠ some .faulted)

/-- R51: a storage word reads as its four bytes, little-endian. -/
def Obligations.HostReadsStorageWords : Prop :=
  ∀ (s : State) (a : Nat) (rest : List Transaction), isStorage a = true → a % 4 = 0 →
    s.script = .read (slotAt a) :: rest →
    ∃ d : Word, step s = .next { s with script := rest, returned := s.returned ++ [d] } ∧
      d.toNat = (s.byte a).toNat + 0x100 * (s.byte (a + 1)).toNat + 0x10000 * (s.byte (a + 2)).toNat +
        0x1000000 * (s.byte (a + 3)).toNat

/-- R51, R53, R57: a host write to storage writes the word's four bytes, little-endian, and nothing else, whatever FAULT
holds (R60). -/
def Obligations.HostWritesStorageWords : Prop :=
  ∀ (s : State) (a : Nat) (d : Word) (rest : List Transaction), isStorage a = true → a % 4 = 0 →
    s.script = .write (slotAt a) d :: rest →
    ∃ t, step s = .next t ∧ t = { s with script := rest, mem := t.mem } ∧
      (∀ j < 4, (t.byte (a + j)).toNat = d.toNat / 2 ^ (8 * j) % 0x100) ∧
      (∀ b, b < a ∨ a + 4 ≤ b → t.byte b = s.byte b)

/-- R24 to R28, R32 to R34: what a host read of every register slot returns, as a number; the read changes nothing else
(R58). -/
def Obligations.HostReadsRegisters : Prop :=
  ∀ (s : State) (a : Nat) (rest : List Transaction), a ∈ [0x300, 0x304, 0x308, 0x30C, 0x310, 0x314, 0x318, 0x31C, 0x320] →
    s.script = .read (slotAt a) :: rest →
    ∃ d : Word, step s = .next { s with script := rest, returned := s.returned ++ [d] } ∧
      d.toNat =
        if a = 0x304 then
          s.fault.toNat + (if s.byte 0x70 ≠ 0 ∧ s.byte 0xC0 ≠ 0 then 0x100 else 0) + (if s.skip then 0x200 else 0)
        else if a = 0x30C then s.finfo.toNat
        else if a = 0x310 then s.len.toNat
        else if a = 0x314 then s.seed.toNat
        else if a = 0x318 then s.ks.toNat
        else if a = 0x31C then s.csum.toNat
        else if a = 0x320 then s.selSv.toNat + 0x100 * s.selGroup.toNat
        else 0

/-- R30: bit 8 of every STATUS read is the heuristic on the buffer as it is, whatever LEN holds. -/
def Obligations.StatusEncIsLive : Prop :=
  ∀ s : State, (s.hostRead (targetOf (slotAt 0x304))).getLsbD 8 = true ↔ s.byte 0x70 ≠ 0 ∧ s.byte 0xC0 ≠ 0

/-- R56: a reserved offset reads 0, a write to it changes nothing, and neither raises a fault. -/
def Obligations.ReservedOffsetsDoNothing : Prop :=
  ∀ (s : State) (a : Nat) (rest : List Transaction), a % 4 = 0 →
    ((0x158 ≤ a ∧ a < 0x200) ∨ (0x2A0 ≤ a ∧ a < 0x300) ∨ (0x324 ≤ a ∧ a < 0x400)) →
    (s.script = .read (slotAt a) :: rest → step s = .next { s with script := rest, returned := s.returned ++ [0] }) ∧
    (∀ d, s.script = .write (slotAt a) d :: rest → step s = .next { s with script := rest })

/-- R57: host writes to the read-only registers change nothing; LEN keeps its low 16 bits and SEED the whole word. -/
def Obligations.HostWritesRegisters : Prop :=
  ∀ (s : State) (a : Nat) (d : Word) (rest : List Transaction), a ∈ [0x304, 0x30C, 0x310, 0x314, 0x318, 0x31C, 0x320] →
    s.script = .write (slotAt a) d :: rest →
    step s = .next
      (if a = 0x310 then { s with script := rest, len := BitVec.ofNat 16 d.toNat }
       else if a = 0x314 then { s with script := rest, seed := d }
       else { s with script := rest })

/-- R34: a CTRL write clears FAULT and FINFO iff bit 0 is set, executes while FAULT is nonzero, and writes nothing else;
a CTRL read returns 0. -/
def Obligations.CtrlWriteClearsFault : Prop :=
  ∀ (s : State) (rest : List Transaction),
    (∀ d, s.script = .write (slotAt 0x308) d :: rest →
      step s = .next
        (if d.toNat % 2 = 1 then { s with script := rest, fault := 0, finfo := 0 } else { s with script := rest })) ∧
    (s.script = .read (slotAt 0x308) :: rest → step s = .next { s with script := rest, returned := s.returned ++ [0] })

/-- R58: a host read changes nothing, so a second read of the same slot returns the same word. -/
def Obligations.HostReadsRepeat : Prop :=
  ∀ (s : State) (slot : BitVec 8) (rest : List Transaction), s.script = .read slot :: .read slot :: rest →
    ∃ d, runFor 2 s = .next { s with script := rest, returned := s.returned ++ [d, d] }

/-! ### Reset and the invariant -/

/-- R41: the registers after reset. Storage: every byte holds the free contents of Config.initByte (log entries 1, 2). -/
def Obligations.ResetValues : Prop :=
  State.reset.seed = 0 ∧ State.reset.ks = 0 ∧ State.reset.csum = 0 ∧ State.reset.selSv = 0 ∧ State.reset.selGroup = 0 ∧
    State.reset.len = 0 ∧ State.reset.fault = 0 ∧ State.reset.skip = false ∧ State.reset.finfo = 0 ∧
    ∀ a, State.reset.byte a = Config.initByte 0 a

/-- R260: the reset input sets every register from any state, whatever FAULT holds, and leaves storage with contents of
which nothing is known from before (log entries 1, 2, 11). -/
def Obligations.ResetInput : Prop :=
  ∀ (s : State) (rest : List Transaction), s.script = .reset :: rest →
    ∃ t, step s = .next t ∧ t.seed = 0 ∧ t.ks = 0 ∧ t.csum = 0 ∧ t.selSv = 0 ∧ t.selGroup = 0 ∧ t.len = 0 ∧ t.fault = 0 ∧
      t.skip = false ∧ t.finfo = 0 ∧ t.script = rest ∧ t.returned = s.returned ∧
      ∀ a, t.byte a = Config.initByte (s.resets + 1) a

/-- The invariant (canonical storage; FAULT and FINFO as R230 and R231 pair them; SEL.GROUP a group) holds after reset. -/
def Obligations.ResetMeetsInvariant : Prop := Invariant State.reset

/-- Every step, of whatever transaction, keeps the invariant: R29, R230, R231, R26. -/
def Obligations.StepKeepsInvariant : Prop :=
  ∀ s t : State, Invariant s → step s = .next t → Invariant t

/-- R29, R242: FAULT goes to 0 only by a CTRL write with FCLR = 1 or reset, becomes nonzero only by a CMD write while it
is 0, and then holds a code from 1 to 5; so the first fault is never overwritten. -/
def Obligations.FaultIsSticky : Prop :=
  ∀ s t : State, step s = .next t →
    (s.fault ≠ 0 → (∃ x rest, s.script = x :: rest ∧ clearsFault x = true ∧ t.fault = 0 ∧ t.finfo = 0) ∨
      (t.fault = s.fault ∧ t.finfo = s.finfo ∧ ∀ x rest, s.script = x :: rest → clearsFault x = false)) ∧
    (s.fault = 0 → t.fault = 0 ∨ (1 ≤ t.fault.toNat ∧ t.fault.toNat ≤ 5 ∧
      ∃ w rest, s.script = .write (slotAt 0x300) w :: rest))

/-! ### What any command may change -/

/-- R104, R241: a faulting command changes STATUS.FAULT and FINFO, and nothing else of the block. -/
def Obligations.FaultWritesNothingElse : Prop :=
  ∀ (i : Instr) (s t : State), exec i s = .next t → t.outcome = some .faulted →
    t.fault ≠ 0 ∧ t = { s with fault := t.fault, finfo := t.finfo, outcome := some .faulted }

/-- R23 to R27 (who writes SEED, KS, CSUM, SEL and LEN) and R62: a register changes only by the commands named for it. -/
def Obligations.OnlyNamedWritersChangeRegisters : Prop :=
  ∀ (i : Instr) (s t : State), exec i s = .next t →
    (t.seed ≠ s.seed → i = .advance ∨ (∃ a b, i = .crypt a b) ∨ i = .encrypt ∨ i = .decrypt) ∧
    (t.ks ≠ s.ks → i = .advance) ∧
    (t.csum ≠ s.csum → i = .checksum ∨ i = .refresh ∨ i = .encrypt) ∧
    ((t.selSv, t.selGroup) ≠ (s.selSv, s.selGroup) → i = .encrypt ∨ i = .decrypt) ∧
    t.len = s.len ∧ t.resets = s.resets ∧ t.script = s.script ∧ t.returned = s.returned

/-- R62: a command changes no byte outside the bytes the rule lists for it, changes bytes only when LEN is legal, and
changes none outside BUF; so none of BP and BPI, and none of BUF[0, 6) but by CRYPT. -/
def Obligations.CommandFootprints : Prop :=
  ∀ (i : Instr) (s t : State), exec i s = .next t →
    (∀ a, t.byte a ≠ s.byte a → (s.len = 0x148 ∨ s.len = 0x158) ∧ a < 0x158 ∧
      match i with
      | .crypt start stop => start.toNat ≤ a ∧ a < stop.toNat ∧ stop.toNat ≤ s.len.toNat
      | .shuffle _ => 0x8 ≤ a ∧ a < 0x148
      | .refresh => 0x6 ≤ a ∧ a < 0x8
      | .encrypt => 0x6 ≤ a ∧ a < s.cend
      | .decrypt => 0x8 ≤ a ∧ a < s.cend
      | .nop | .advance | .checksum => False) ∧
    (∀ k < 128, t.bp k = s.bp k) ∧ (∀ k < 32, t.bpi k = s.bpi k)

/-- R31: SKIP is 1 after a skipped ENCRYPT or DECRYPT, 0 after every other command that executes, and kept by a faulting
one. -/
def Obligations.SkipFollowsOutcome : Prop :=
  ∀ (i : Instr) (s : State), ∃ t, exec i s = .next t ∧
    ((t.outcome = some .executed ∧ t.skip = false) ∨
     (t.outcome = some .skipped ∧ t.skip = true ∧
      ((i = .encrypt ∧ s.byte 0x70 ≠ 0 ∧ s.byte 0xC0 ≠ 0) ∨ (i = .decrypt ∧ (s.byte 0x70 = 0 ∨ s.byte 0xC0 = 0)))) ∨
     (t.outcome = some .faulted ∧ t.skip = s.skip))

/-- R9, R262: once the host has written BUF and the tables, no command depends on what storage held after reset: from a
state with other free contents (another reset count, log entry 2) it ends alike. -/
def Obligations.FreeContentsDoNotMatterOnceWritten : Prop :=
  ∀ (i : Instr) (s : State) (n : Nat), i.wellFormed = true → StorageWritten s →
    ∃ t, exec i s = .next t ∧ StorageWritten t ∧ exec i { s with resets := n } = .next { t with resets := n }

/-- R230, R233: the six buffer commands raise INVALID_LENGTH, with LEN.VALUE as information, when LEN is neither legal
length. -/
def Obligations.IllegalLengthFaults : Prop :=
  ∀ (i : Instr) (s : State), i ≠ .nop → i ≠ .advance → s.len ≠ 0x148 → s.len ≠ 0x158 →
    exec i s = .next { s with fault := 2, finfo := BitVec.ofNat 32 s.len.toNat, outcome := some .faulted }

/-! ### The commands -/

/-- R107: NOP writes SKIP <- 0 and nothing else, in every state, whatever LEN holds; its only word is 0,
and every other word with its opcode is illegal. -/
def Obligations.NopResult : Prop :=
  (∀ s : State, exec .nop s = .next { s with skip := false, outcome := some .executed }) ∧
    OnlyWord .nop 0x00000000

/-- R120, R124: the LCG step and its two bytes, as exact integer arithmetic reduced modulo 2^32. -/
def Obligations.LcgArithmetic : Prop :=
  ∀ x : Word, (lcg x).toNat = (x.toNat * 0x41C64E6D + 0x6073) % 2 ^ 32 ∧
    (byteLo x).toNat = x.toNat / 2 ^ 16 % 0x100 ∧ (byteHi x).toNat = x.toNat / 2 ^ 24 % 0x100

/-- R121: ADVANCE leaves the next LCG state in SEED and that state's two high bytes in KS, in every state, whatever LEN
holds; its only word is 1, and every other word with its opcode is illegal. -/
def Obligations.AdvanceResult : Prop :=
  (∀ s : State, ∃ t, exec .advance s = .next t ∧
    t = { s with seed := t.seed, ks := t.ks, skip := false, outcome := some .executed } ∧
    t.seed.toNat = (s.seed.toNat * 0x41C64E6D + 0x6073) % 2 ^ 32 ∧ t.ks.toNat = t.seed.toNat / 2 ^ 16) ∧
    OnlyWord .advance 0x00000001

/-- R140, R141: CRYPT of an even region within the record XORs byte k of the region with byte k of the keystream from
SEED, leaves the last LCG state in SEED, and changes nothing else. An empty region and an odd start are among them. -/
def Obligations.CryptResult : Prop :=
  ∀ (s : State) (start stop : Half), (s.len = 0x148 ∨ s.len = 0x158) → start.toNat ≤ stop.toNat →
    stop.toNat ≤ s.len.toNat → (stop.toNat - start.toNat) % 2 = 0 →
    ∃ t, exec (.crypt start stop) s = .next t ∧
      t =
        { s with
          mem := t.mem, seed := lcg^[(stop.toNat - start.toNat) / 2] s.seed, skip := false
          outcome := some .executed } ∧
      (∀ k < stop.toNat - start.toNat,
        t.byte (start.toNat + k) = s.byte (start.toNat + k) ^^^ keystreamByte s.seed k) ∧
      (∀ a, a < start.toNat ∨ stop.toNat ≤ a → t.byte a = s.byte a)

/-- R141, R234, R235: with a legal LEN, CRYPT raises INDEX_OUT_OF_RANGE when start > end or end > LEN.VALUE, and else
ODD_REGION when the region is odd, with end and start as information. -/
def Obligations.CryptRegionFaults : Prop :=
  ∀ (s : State) (start stop : Half), (s.len = 0x148 ∨ s.len = 0x158) →
    ((stop.toNat < start.toNat ∨ s.len.toNat < stop.toNat) →
      exec (.crypt start stop) s = .next
        { s with
          fault := 3, finfo := BitVec.ofNat 32 (stop.toNat * 0x10000 + start.toNat), outcome := some .faulted }) ∧
    (start.toNat ≤ stop.toNat → stop.toNat ≤ s.len.toNat → (stop.toNat - start.toNat) % 2 = 1 →
      exec (.crypt start stop) s = .next
        { s with
          fault := 4, finfo := BitVec.ofNat 32 (stop.toNat * 0x10000 + start.toNat), outcome := some .faulted })

/-- R142: CRYPT twice from the same SEED restores every byte, and leaves the same SEED both times. -/
def Obligations.CryptTwiceRestores : Prop :=
  ∀ (s : State) (start stop : Half), (s.len = 0x148 ∨ s.len = 0x158) → start.toNat ≤ stop.toNat →
    stop.toNat ≤ s.len.toNat → (stop.toNat - start.toNat) % 2 = 0 →
    ∃ t u, exec (.crypt start stop) s = .next t ∧ exec (.crypt start stop) { t with seed := s.seed } = .next u ∧
      u.seed = t.seed ∧ ∀ a, u.byte a = s.byte a

/-- R143: CRYPT of [start, mid) followed by CRYPT of [mid, end) is CRYPT of [start, end). -/
def Obligations.CryptContinues : Prop :=
  ∀ (s : State) (start mid stop : Half), (s.len = 0x148 ∨ s.len = 0x158) → start.toNat ≤ mid.toNat →
    mid.toNat ≤ stop.toNat → stop.toNat ≤ s.len.toNat → (mid.toNat - start.toNat) % 2 = 0 →
    (stop.toNat - mid.toNat) % 2 = 0 →
    ∃ t u v, exec (.crypt start mid) s = .next t ∧ exec (.crypt mid stop) t = .next u ∧
      exec (.crypt start stop) s = .next v ∧ u = { v with mem := u.mem } ∧ ∀ a, u.byte a = v.byte a

/-- R160, R162: SHUFFLE by a row in range copies old block `BP[4g + b]` into block b, for every b at once, and changes
nothing else; rows that are no permutation are among them. -/
def Obligations.ShuffleResult : Prop :=
  ∀ (s : State) (group : Byte), (s.len = 0x148 ∨ s.len = 0x158) → RowInRange s group.toNat →
    ∃ t, exec (.shuffle group) s = .next t ∧
      t = { s with mem := t.mem, skip := false, outcome := some .executed } ∧
      (∀ b < 4, ∀ j < 0x50,
        t.byte (0x8 + 0x50 * b + j) = s.byte (0x8 + 0x50 * sourceBlock s group.toNat b + j)) ∧
      (∀ a, a < 0x8 ∨ 0x148 ≤ a → t.byte a = s.byte a)

/-- R161, R162, R236: with a legal LEN, SHUFFLE raises BAD_TABLE_ENTRY for the first entry of the row above 3, with
value, table 0 and index as information. -/
def Obligations.ShuffleBadRowFaults : Prop :=
  ∀ (s : State) (group : Byte) (k : Nat), (s.len = 0x148 ∨ s.len = 0x158) → group.toNat < 32 → k < 4 →
    3 < sourceBlock s group.toNat k → (∀ j < k, sourceBlock s group.toNat j ≤ 3) →
    exec (.shuffle group) s = .next
      { s with
        fault := 5
        finfo := BitVec.ofNat 32 (sourceBlock s group.toNat k * 0x10000 + (4 * group.toNat + k))
        outcome := some .faulted }

/-- R163: a shuffle followed by the shuffle of the inverse row restores every byte. -/
def Obligations.ShuffleInverseRestores : Prop :=
  ∀ (s : State) (p q : Byte), (s.len = 0x148 ∨ s.len = 0x158) → RowInRange s p.toNat → RowInRange s q.toNat →
    RowsCancel s p.toNat q.toNat →
    ∃ t u, exec (.shuffle p) s = .next t ∧ exec (.shuffle q) t = .next u ∧ ∀ a, u.byte a = s.byte a

/-- R163, R183: a shuffle by a permutation row does not change the checksum. -/
def Obligations.ShuffleKeepsChecksum : Prop :=
  ∀ (s : State) (group : Byte), (s.len = 0x148 ∨ s.len = 0x158) → RowIsPermutation s group.toNat →
    ∃ t, exec (.shuffle group) s = .next t ∧ bodySum t % 0x10000 = bodySum s % 0x10000 ∧
      ∃ u v, exec .checksum s = .next u ∧ exec .checksum t = .next v ∧ v.csum = u.csum

/-- R180, R181, R182: with a legal LEN, CHECKSUM leaves in CSUM the exact sum of the body's words reduced modulo 0x10000,
and changes nothing else; storage too is unchanged. With an illegal LEN it faults; its only word is 4. -/
def Obligations.ChecksumResult : Prop :=
  (∀ s : State, (s.len = 0x148 ∨ s.len = 0x158) →
    exec .checksum s = .next { s with csum := BitVec.ofNat 16 (bodySum s), skip := false, outcome := some .executed }) ∧
  (∀ s : State, s.len ≠ 0x148 → s.len ≠ 0x158 →
    exec .checksum s = .next { s with fault := 2, finfo := BitVec.ofNat 32 s.len.toNat, outcome := some .faulted }) ∧
  OnlyWord .checksum 0x00000004

/-- R186: with a legal LEN, REFRESH leaves the checksum in CSUM and in BUF[6..7], low byte first, and changes nothing else.
With an illegal LEN it faults; its only word is 5. -/
def Obligations.RefreshResult : Prop :=
  (∀ s : State, (s.len = 0x148 ∨ s.len = 0x158) →
    ∃ t, exec .refresh s = .next t ∧
      t =
        { s with
          mem := t.mem, csum := BitVec.ofNat 16 (bodySum s), skip := false, outcome := some .executed } ∧
      (t.byte 6).toNat = bodySum s % 0x100 ∧ (t.byte 7).toNat = bodySum s / 0x100 % 0x100 ∧
      (∀ a, a < 6 ∨ 8 ≤ a → t.byte a = s.byte a)) ∧
  (∀ s : State, s.len ≠ 0x148 → s.len ≠ 0x158 →
    exec .refresh s = .next { s with fault := 2, finfo := BitVec.ofNat 32 s.len.toNat, outcome := some .faulted }) ∧
  OnlyWord .refresh 0x00000005

/-- R15, R50: EC is the little-endian number in BUF[0, 4), and the selector is its bits 17:13. -/
def Obligations.SelectorFromRecord : Prop :=
  ∀ s : State, s.ec.toNat = ecValue s ∧ (selector s.ec).toNat = svValue s

/-- R201, R210, R220, R239: ENCRYPT of a buffer the heuristic calls encrypted, and DECRYPT of one it does not, only set
SKIP, whatever the tables hold. -/
def Obligations.HeuristicSkips : Prop :=
  ∀ s : State, (s.len = 0x148 ∨ s.len = 0x158) →
    ((s.byte 0x70 ≠ 0 ∧ s.byte 0xC0 ≠ 0) →
      exec .encrypt s = .next { s with skip := true, outcome := some .skipped }) ∧
    ((s.byte 0x70 = 0 ∨ s.byte 0xC0 = 0) →
      exec .decrypt s = .next { s with skip := true, outcome := some .skipped })

/-- R210, R211, R212: an executed ENCRYPT. The body is shuffled by row `BPI[sv]` and XORed with the keystream from EC, the
extra block with the same keystream continued when LEN is 0x158; the plaintext checksum stands in BUF[6..7] and CSUM; SEED
holds the last LCG state and SEL the selector and group; nothing else changes. -/
def Obligations.EncryptResult : Prop :=
  ∀ s : State, (s.len = 0x148 ∨ s.len = 0x158) → (s.byte 0x70 = 0 ∨ s.byte 0xC0 = 0) → groupValue s ≤ 31 →
    RowInRange s (groupValue s) →
    ∃ t, exec .encrypt s = .next t ∧
      t =
        { s with
          mem := t.mem, csum := BitVec.ofNat 16 (bodySum s)
          seed := lcg^[if s.len = 0x158 then 0xA8 else 0xA0] (BitVec.ofNat 32 (ecValue s))
          selSv := BitVec.ofNat 5 (svValue s), selGroup := BitVec.ofNat 8 (groupValue s)
          skip := false, outcome := some .executed } ∧
      (t.byte 6).toNat = bodySum s % 0x100 ∧ (t.byte 7).toNat = bodySum s / 0x100 % 0x100 ∧
      (∀ b < 4, ∀ j < 0x50,
        t.byte (0x8 + 0x50 * b + j) = s.byte (0x8 + 0x50 * sourceBlock s (groupValue s) b + j) ^^^
          keystreamByte (BitVec.ofNat 32 (ecValue s)) (0x50 * b + j)) ∧
      (s.len = 0x158 → ∀ j < 0x10,
        t.byte (0x148 + j) = s.byte (0x148 + j) ^^^ keystreamByte (BitVec.ofNat 32 (ecValue s)) (0x140 + j)) ∧
      (∀ a, a < 6 ∨ s.len.toNat ≤ a → t.byte a = s.byte a)

/-- R210, R211, R236, R239: an ENCRYPT that is not skipped raises BAD_TABLE_ENTRY for `BPI[sv]` above 31, and else for the
first entry above 3 of the row it names. -/
def Obligations.EncryptBadTablesFault : Prop :=
  ∀ s : State, (s.len = 0x148 ∨ s.len = 0x158) → (s.byte 0x70 = 0 ∨ s.byte 0xC0 = 0) →
    (31 < groupValue s →
      exec .encrypt s = .next
        { s with
          fault := 5, finfo := BitVec.ofNat 32 (groupValue s * 0x10000 + 0x100 + svValue s)
          outcome := some .faulted }) ∧
    (∀ k < 4, groupValue s ≤ 31 → 3 < sourceBlock s (groupValue s) k →
      (∀ j < k, sourceBlock s (groupValue s) j ≤ 3) →
      exec .encrypt s = .next
        { s with
          fault := 5
          finfo := BitVec.ofNat 32 (sourceBlock s (groupValue s) k * 0x10000 + (4 * groupValue s + k))
          outcome := some .faulted })

/-- R220, R221, R222: an executed DECRYPT. The body is XORed with the keystream from EC and then shuffled by row `sv`
itself, the extra block is XORed with the keystream continued when LEN is 0x158; SEED and SEL are written; CSUM, BUF[6..7]
and everything else are unchanged. -/
def Obligations.DecryptResult : Prop :=
  ∀ s : State, (s.len = 0x148 ∨ s.len = 0x158) → s.byte 0x70 ≠ 0 → s.byte 0xC0 ≠ 0 → RowInRange s (svValue s) →
    ∃ t, exec .decrypt s = .next t ∧
      t =
        { s with
          mem := t.mem
          seed := lcg^[if s.len = 0x158 then 0xA8 else 0xA0] (BitVec.ofNat 32 (ecValue s))
          selSv := BitVec.ofNat 5 (svValue s), selGroup := BitVec.ofNat 8 (svValue s)
          skip := false, outcome := some .executed } ∧
      (∀ b < 4, ∀ j < 0x50,
        t.byte (0x8 + 0x50 * b + j) = s.byte (0x8 + 0x50 * sourceBlock s (svValue s) b + j) ^^^
          keystreamByte (BitVec.ofNat 32 (ecValue s)) (0x50 * sourceBlock s (svValue s) b + j)) ∧
      (s.len = 0x158 → ∀ j < 0x10,
        t.byte (0x148 + j) = s.byte (0x148 + j) ^^^ keystreamByte (BitVec.ofNat 32 (ecValue s)) (0x140 + j)) ∧
      (∀ a, a < 8 ∨ s.len.toNat ≤ a → t.byte a = s.byte a)

/-- R220, R236: a DECRYPT that is not skipped raises BAD_TABLE_ENTRY for the first entry above 3 of row `sv`, whatever BPI
holds. -/
def Obligations.DecryptBadRowFaults : Prop :=
  ∀ (s : State) (k : Nat), (s.len = 0x148 ∨ s.len = 0x158) → s.byte 0x70 ≠ 0 → s.byte 0xC0 ≠ 0 → k < 4 →
    3 < sourceBlock s (svValue s) k → (∀ j < k, sourceBlock s (svValue s) j ≤ 3) →
    exec .decrypt s = .next
      { s with
        fault := 5, finfo := BitVec.ofNat 32 (sourceBlock s (svValue s) k * 0x10000 + (4 * svValue s + k))
        outcome := some .faulted }

/-! ### Laws of the record transform -/

/-- R212 (h), R23: ENCRYPT and DECRYPT do not read the old SEED: a run from another SEED ends alike, but that a command
that does not execute keeps the SEED it found. -/
def Obligations.TransformIgnoresOldSeed : Prop :=
  ∀ (i : Instr) (s : State) (x : Word), (i = .encrypt ∨ i = .decrypt) →
    ∃ t, exec i s = .next t ∧
      (t.outcome = some .executed → exec i { s with seed := x } = .next t) ∧
      (t.outcome ≠ some .executed → t.seed = s.seed ∧ exec i { s with seed := x } = .next { t with seed := x })

/-- R227: after an executed ENCRYPT, CSUM and BUF[6..7] hold the checksum of the body before the shuffle; when the row is a
permutation, that is also the checksum of the shuffled body. -/
def Obligations.EncryptChecksumIsOfPlaintext : Prop :=
  ∀ s t : State, exec .encrypt s = .next t → t.outcome = some .executed →
    t.csum.toNat = bodySum s % 0x10000 ∧ (t.byte 6).toNat + 0x100 * (t.byte 7).toNat = bodySum s % 0x10000 ∧
    (RowIsPermutation s (groupValue s) →
      ∃ u, exec (.shuffle (BitVec.ofNat 8 (groupValue s))) s = .next u ∧ t.csum.toNat = bodySum u % 0x10000)

/-- R226: a second ENCRYPT is skipped when the heuristic holds on the first one's result, and a second DECRYPT when it
does not; a skipped command leaves everything but SKIP. -/
def Obligations.SecondTransformIsSkipped : Prop :=
  ∀ s t : State,
    (exec .encrypt s = .next t → t.outcome = some .executed → t.byte 0x70 ≠ 0 → t.byte 0xC0 ≠ 0 →
      exec .encrypt t = .next { t with skip := true, outcome := some .skipped }) ∧
    (exec .decrypt s = .next t → t.outcome = some .executed → (t.byte 0x70 = 0 ∨ t.byte 0xC0 = 0) →
      exec .decrypt t = .next { t with skip := true, outcome := some .skipped })

/-- R225: the round trip with its premises (1) to (6), as two CMD writes one after the other (the script: log entry 3). Every byte comes back but
BUF[6..7], which hold the plaintext's checksum; so the buffer comes back bit for bit exactly when its checksum field
already held it. -/
def Obligations.EncryptDecryptRoundTrip : Prop :=
  ∀ (s : State) (rest : List Transaction),
    s.script = .write (slotAt 0x300) 0x00000006 :: .write (slotAt 0x300) 0x00000007 :: rest →
    s.fault = 0 → (s.len = 0x148 ∨ s.len = 0x158) → (s.byte 0x70 = 0 ∨ s.byte 0xC0 = 0) → groupValue s ≤ 31 →
    RowInRange s (groupValue s) → RowInRange s (svValue s) → RowsCancel s (groupValue s) (svValue s) →
    ∃ t, step s = .next t ∧ t.fault = 0 ∧ t.skip = false ∧
      (t.byte 0x70 ≠ 0 → t.byte 0xC0 ≠ 0 →
        ∃ u, step t = .next u ∧ u.fault = 0 ∧ u.skip = false ∧ u.script = rest ∧
          (∀ a, a < 6 ∨ 8 ≤ a → u.byte a = s.byte a) ∧
          (u.byte 6).toNat + 0x100 * (u.byte 7).toNat = bodySum s % 0x10000 ∧
          ((∀ a, u.byte a = s.byte a) ↔ (s.byte 6).toNat + 0x100 * (s.byte 7).toNat = bodySum s % 0x10000))

/-- R89: ENCSTEPS with g = BPI[SV(ec)] leaves BUF, CSUM and SEED as ENCRYPT leaves them, on a buffer that ENCRYPT neither
skips nor faults on, and does not write SEL. The five lines' words are those of R90. That the lines are a list of
transactions in `script` is log entry 3, and that the `ec` which the second line reads back is a parameter of `encSteps`,
given here as the EC of the buffer, is log entry 15. -/
def Obligations.EncryptFromPrimitives : Prop :=
  ∀ (s : State) (rest : List Transaction), s.fault = 0 → (s.len = 0x148 ∨ s.len = 0x158) →
    (s.byte 0x70 = 0 ∨ s.byte 0xC0 = 0) → groupValue s ≤ 31 → RowInRange s (groupValue s) →
    s.script = encSteps (BitVec.ofNat 8 (groupValue s)) (BitVec.ofNat 32 (ecValue s)) s.len ++ rest →
    ∃ t u, exec .encrypt s = .next t ∧ t.outcome = some .executed ∧ runFor 5 s = .next u ∧
      (∀ a, u.byte a = t.byte a) ∧ u.csum = t.csum ∧ u.seed = t.seed ∧ u.selSv = s.selSv ∧ u.selGroup = s.selGroup ∧
      u.fault = 0 ∧ u.script = rest ∧ u.returned = s.returned ++ [BitVec.ofNat 32 (ecValue s)]
end

