-- ==== Sys2Proof/Laws/Encoding.lean ====
section
/-! SUPPORT. The fields of an encoded word (30_encoding.md R81, R90): each is the encoder's input, and the reserved fields
are zero. -/

namespace Sys2Proof.Laws
open Sys2Proof

theorem enc_op (op : BitVec 4) (a b : BitVec 9) : opField (enc op a b) = op := by
  apply BitVec.eq_of_getLsbD_eq
  intro i hi
  simp [opField, enc, show i < 32 by omega, show i < 8 by omega, show i < 17 by omega, hi]

theorem enc_z1 (op : BitVec 4) (a b : BitVec 9) : (enc op a b).extractLsb' 4 4 = 0 := by
  apply BitVec.eq_of_getLsbD_eq
  intro i hi
  simp [enc, show 4 + i < 32 by omega, show 4 + i < 8 by omega, show 4 + i < 17 by omega, hi]

theorem enc_a (op : BitVec 4) (a b : BitVec 9) : (enc op a b).extractLsb' 8 9 = a := by
  apply BitVec.eq_of_getLsbD_eq
  intro i hi
  have hop : op.getLsbD (8 + i) = false := BitVec.getLsbD_of_ge _ _ (by omega)
  simp [enc, show 8 + i < 32 by omega, show 8 + i < 17 by omega, hi, hop]

theorem enc_b (op : BitVec 4) (a b : BitVec 9) : (enc op a b).extractLsb' 17 9 = b := by
  apply BitVec.eq_of_getLsbD_eq
  intro i hi
  have hop : op.getLsbD (17 + i) = false := BitVec.getLsbD_of_ge _ _ (by omega)
  have ha : a.getLsbD (17 + i - 8) = false := BitVec.getLsbD_of_ge _ _ (by omega)
  simp [enc, show 17 + i < 32 by omega, hi, hop, ha]

theorem enc_z2 (op : BitVec 4) (a b : BitVec 9) : (enc op a b).extractLsb' 26 6 = 0 := by
  apply BitVec.eq_of_getLsbD_eq
  intro i hi
  have hop : op.getLsbD (26 + i) = false := BitVec.getLsbD_of_ge _ _ (by omega)
  have ha : a.getLsbD (26 + i - 8) = false := BitVec.getLsbD_of_ge _ _ (by omega)
  have hb : b.getLsbD (26 + i - 17) = false := BitVec.getLsbD_of_ge _ _ (by omega)
  simp [enc, hop, ha, hb]

/-- The rows of the opcode map are disjoint (R84): no word matches two of them. -/
theorem opcodeTable_disjoint :
    opcodeTable.Pairwise (fun r r' => r.pattern &&& r'.mask &&& r.mask ≠ r'.pattern &&& r.mask &&& r'.mask) := by
  decide

end Sys2Proof.Laws
end

