-- ==== Sys2Proof/Laws/State.lean ====
section
/-! SUPPORT. One lemma per field of State for each named update: what the field holds afterwards. -/

namespace Sys2Proof.Laws
open Sys2Proof Sys2Proof.Machine

variable (s : State)

@[simp] theorem raise_seed (f : FaultCode) (info : Word) : (s.raise f info).seed = s.seed := rfl
@[simp] theorem raise_ks (f : FaultCode) (info : Word) : (s.raise f info).ks = s.ks := rfl
@[simp] theorem raise_csum (f : FaultCode) (info : Word) : (s.raise f info).csum = s.csum := rfl
@[simp] theorem raise_selSv (f : FaultCode) (info : Word) : (s.raise f info).selSv = s.selSv := rfl
@[simp] theorem raise_selGroup (f : FaultCode) (info : Word) : (s.raise f info).selGroup = s.selGroup := rfl
@[simp] theorem raise_len (f : FaultCode) (info : Word) : (s.raise f info).len = s.len := rfl
@[simp] theorem raise_fault (f : FaultCode) (info : Word) : (s.raise f info).fault = f.code := rfl
@[simp] theorem raise_skip (f : FaultCode) (info : Word) : (s.raise f info).skip = s.skip := rfl
@[simp] theorem raise_finfo (f : FaultCode) (info : Word) : (s.raise f info).finfo = info := rfl
@[simp] theorem raise_mem (f : FaultCode) (info : Word) : (s.raise f info).mem = s.mem := rfl
@[simp] theorem raise_resets (f : FaultCode) (info : Word) : (s.raise f info).resets = s.resets := rfl
@[simp] theorem raise_script (f : FaultCode) (info : Word) : (s.raise f info).script = s.script := rfl
@[simp] theorem raise_returned (f : FaultCode) (info : Word) : (s.raise f info).returned = s.returned := rfl
@[simp] theorem raise_outcome (f : FaultCode) (info : Word) : (s.raise f info).outcome = some .faulted := rfl

@[simp] theorem clearFault_seed : (s.clearFault).seed = s.seed := rfl
@[simp] theorem clearFault_ks : (s.clearFault).ks = s.ks := rfl
@[simp] theorem clearFault_csum : (s.clearFault).csum = s.csum := rfl
@[simp] theorem clearFault_selSv : (s.clearFault).selSv = s.selSv := rfl
@[simp] theorem clearFault_selGroup : (s.clearFault).selGroup = s.selGroup := rfl
@[simp] theorem clearFault_len : (s.clearFault).len = s.len := rfl
@[simp] theorem clearFault_fault : (s.clearFault).fault = 0 := rfl
@[simp] theorem clearFault_skip : (s.clearFault).skip = s.skip := rfl
@[simp] theorem clearFault_finfo : (s.clearFault).finfo = 0 := rfl
@[simp] theorem clearFault_mem : (s.clearFault).mem = s.mem := rfl
@[simp] theorem clearFault_resets : (s.clearFault).resets = s.resets := rfl
@[simp] theorem clearFault_script : (s.clearFault).script = s.script := rfl
@[simp] theorem clearFault_returned : (s.clearFault).returned = s.returned := rfl
@[simp] theorem clearFault_outcome : (s.clearFault).outcome = s.outcome := rfl

@[simp] theorem complete_seed : (s.complete).seed = s.seed := rfl
@[simp] theorem complete_ks : (s.complete).ks = s.ks := rfl
@[simp] theorem complete_csum : (s.complete).csum = s.csum := rfl
@[simp] theorem complete_selSv : (s.complete).selSv = s.selSv := rfl
@[simp] theorem complete_selGroup : (s.complete).selGroup = s.selGroup := rfl
@[simp] theorem complete_len : (s.complete).len = s.len := rfl
@[simp] theorem complete_fault : (s.complete).fault = s.fault := rfl
@[simp] theorem complete_skip : (s.complete).skip = false := rfl
@[simp] theorem complete_finfo : (s.complete).finfo = s.finfo := rfl
@[simp] theorem complete_mem : (s.complete).mem = s.mem := rfl
@[simp] theorem complete_resets : (s.complete).resets = s.resets := rfl
@[simp] theorem complete_script : (s.complete).script = s.script := rfl
@[simp] theorem complete_returned : (s.complete).returned = s.returned := rfl
@[simp] theorem complete_outcome : (s.complete).outcome = some .executed := rfl

@[simp] theorem skipCommand_seed : (s.skipCommand).seed = s.seed := rfl
@[simp] theorem skipCommand_ks : (s.skipCommand).ks = s.ks := rfl
@[simp] theorem skipCommand_csum : (s.skipCommand).csum = s.csum := rfl
@[simp] theorem skipCommand_selSv : (s.skipCommand).selSv = s.selSv := rfl
@[simp] theorem skipCommand_selGroup : (s.skipCommand).selGroup = s.selGroup := rfl
@[simp] theorem skipCommand_len : (s.skipCommand).len = s.len := rfl
@[simp] theorem skipCommand_fault : (s.skipCommand).fault = s.fault := rfl
@[simp] theorem skipCommand_skip : (s.skipCommand).skip = true := rfl
@[simp] theorem skipCommand_finfo : (s.skipCommand).finfo = s.finfo := rfl
@[simp] theorem skipCommand_mem : (s.skipCommand).mem = s.mem := rfl
@[simp] theorem skipCommand_resets : (s.skipCommand).resets = s.resets := rfl
@[simp] theorem skipCommand_script : (s.skipCommand).script = s.script := rfl
@[simp] theorem skipCommand_returned : (s.skipCommand).returned = s.returned := rfl
@[simp] theorem skipCommand_outcome : (s.skipCommand).outcome = some .skipped := rfl

@[simp] theorem dropCommand_seed : (s.dropCommand).seed = s.seed := rfl
@[simp] theorem dropCommand_ks : (s.dropCommand).ks = s.ks := rfl
@[simp] theorem dropCommand_csum : (s.dropCommand).csum = s.csum := rfl
@[simp] theorem dropCommand_selSv : (s.dropCommand).selSv = s.selSv := rfl
@[simp] theorem dropCommand_selGroup : (s.dropCommand).selGroup = s.selGroup := rfl
@[simp] theorem dropCommand_len : (s.dropCommand).len = s.len := rfl
@[simp] theorem dropCommand_fault : (s.dropCommand).fault = s.fault := rfl
@[simp] theorem dropCommand_skip : (s.dropCommand).skip = s.skip := rfl
@[simp] theorem dropCommand_finfo : (s.dropCommand).finfo = s.finfo := rfl
@[simp] theorem dropCommand_mem : (s.dropCommand).mem = s.mem := rfl
@[simp] theorem dropCommand_resets : (s.dropCommand).resets = s.resets := rfl
@[simp] theorem dropCommand_script : (s.dropCommand).script = s.script := rfl
@[simp] theorem dropCommand_returned : (s.dropCommand).returned = s.returned := rfl
@[simp] theorem dropCommand_outcome : (s.dropCommand).outcome = some .dropped := rfl

@[simp] theorem resetBlock_seed : (s.resetBlock).seed = 0 := rfl
@[simp] theorem resetBlock_ks : (s.resetBlock).ks = 0 := rfl
@[simp] theorem resetBlock_csum : (s.resetBlock).csum = 0 := rfl
@[simp] theorem resetBlock_selSv : (s.resetBlock).selSv = 0 := rfl
@[simp] theorem resetBlock_selGroup : (s.resetBlock).selGroup = 0 := rfl
@[simp] theorem resetBlock_len : (s.resetBlock).len = 0 := rfl
@[simp] theorem resetBlock_fault : (s.resetBlock).fault = 0 := rfl
@[simp] theorem resetBlock_skip : (s.resetBlock).skip = false := rfl
@[simp] theorem resetBlock_finfo : (s.resetBlock).finfo = 0 := rfl
@[simp] theorem resetBlock_mem : (s.resetBlock).mem = [] := rfl
@[simp] theorem resetBlock_resets : (s.resetBlock).resets = s.resets + 1 := rfl
@[simp] theorem resetBlock_script : (s.resetBlock).script = s.script := rfl
@[simp] theorem resetBlock_returned : (s.resetBlock).returned = s.returned := rfl
@[simp] theorem resetBlock_outcome : (s.resetBlock).outcome = none := rfl

@[simp] theorem storeBytes_seed (a : Nat) (vs : List Byte) : (s.storeBytes a vs).seed = s.seed := rfl
@[simp] theorem storeBytes_ks (a : Nat) (vs : List Byte) : (s.storeBytes a vs).ks = s.ks := rfl
@[simp] theorem storeBytes_csum (a : Nat) (vs : List Byte) : (s.storeBytes a vs).csum = s.csum := rfl
@[simp] theorem storeBytes_selSv (a : Nat) (vs : List Byte) : (s.storeBytes a vs).selSv = s.selSv := rfl
@[simp] theorem storeBytes_selGroup (a : Nat) (vs : List Byte) : (s.storeBytes a vs).selGroup = s.selGroup := rfl
@[simp] theorem storeBytes_len (a : Nat) (vs : List Byte) : (s.storeBytes a vs).len = s.len := rfl
@[simp] theorem storeBytes_fault (a : Nat) (vs : List Byte) : (s.storeBytes a vs).fault = s.fault := rfl
@[simp] theorem storeBytes_skip (a : Nat) (vs : List Byte) : (s.storeBytes a vs).skip = s.skip := rfl
@[simp] theorem storeBytes_finfo (a : Nat) (vs : List Byte) : (s.storeBytes a vs).finfo = s.finfo := rfl
@[simp] theorem storeBytes_mem (a : Nat) (vs : List Byte) : (s.storeBytes a vs).mem = memStore s.mem a vs := rfl
@[simp] theorem storeBytes_resets (a : Nat) (vs : List Byte) : (s.storeBytes a vs).resets = s.resets := rfl
@[simp] theorem storeBytes_script (a : Nat) (vs : List Byte) : (s.storeBytes a vs).script = s.script := rfl
@[simp] theorem storeBytes_returned (a : Nat) (vs : List Byte) : (s.storeBytes a vs).returned = s.returned := rfl
@[simp] theorem storeBytes_outcome (a : Nat) (vs : List Byte) : (s.storeBytes a vs).outcome = s.outcome := rfl

@[simp] theorem memWrite_seed (a n : Nat) (v : Word) : (s.memWrite a n v).seed = s.seed := rfl
@[simp] theorem memWrite_ks (a n : Nat) (v : Word) : (s.memWrite a n v).ks = s.ks := rfl
@[simp] theorem memWrite_csum (a n : Nat) (v : Word) : (s.memWrite a n v).csum = s.csum := rfl
@[simp] theorem memWrite_selSv (a n : Nat) (v : Word) : (s.memWrite a n v).selSv = s.selSv := rfl
@[simp] theorem memWrite_selGroup (a n : Nat) (v : Word) : (s.memWrite a n v).selGroup = s.selGroup := rfl
@[simp] theorem memWrite_len (a n : Nat) (v : Word) : (s.memWrite a n v).len = s.len := rfl
@[simp] theorem memWrite_fault (a n : Nat) (v : Word) : (s.memWrite a n v).fault = s.fault := rfl
@[simp] theorem memWrite_skip (a n : Nat) (v : Word) : (s.memWrite a n v).skip = s.skip := rfl
@[simp] theorem memWrite_finfo (a n : Nat) (v : Word) : (s.memWrite a n v).finfo = s.finfo := rfl
@[simp] theorem memWrite_mem (a n : Nat) (v : Word) : (s.memWrite a n v).mem = memStore s.mem a (wordBytes n v) := rfl
@[simp] theorem memWrite_resets (a n : Nat) (v : Word) : (s.memWrite a n v).resets = s.resets := rfl
@[simp] theorem memWrite_script (a n : Nat) (v : Word) : (s.memWrite a n v).script = s.script := rfl
@[simp] theorem memWrite_returned (a n : Nat) (v : Word) : (s.memWrite a n v).returned = s.returned := rfl
@[simp] theorem memWrite_outcome (a n : Nat) (v : Word) : (s.memWrite a n v).outcome = s.outcome := rfl

@[simp] theorem writeChecksum_seed (c : Half) : (s.writeChecksum c).seed = s.seed := rfl
@[simp] theorem writeChecksum_ks (c : Half) : (s.writeChecksum c).ks = s.ks := rfl
@[simp] theorem writeChecksum_csum (c : Half) : (s.writeChecksum c).csum = s.csum := rfl
@[simp] theorem writeChecksum_selSv (c : Half) : (s.writeChecksum c).selSv = s.selSv := rfl
@[simp] theorem writeChecksum_selGroup (c : Half) : (s.writeChecksum c).selGroup = s.selGroup := rfl
@[simp] theorem writeChecksum_len (c : Half) : (s.writeChecksum c).len = s.len := rfl
@[simp] theorem writeChecksum_fault (c : Half) : (s.writeChecksum c).fault = s.fault := rfl
@[simp] theorem writeChecksum_skip (c : Half) : (s.writeChecksum c).skip = s.skip := rfl
@[simp] theorem writeChecksum_finfo (c : Half) : (s.writeChecksum c).finfo = s.finfo := rfl
@[simp] theorem writeChecksum_mem (c : Half) : (s.writeChecksum c).mem = memStore s.mem 0x6 (wordBytes 2 (c.setWidth 32)) := rfl
@[simp] theorem writeChecksum_resets (c : Half) : (s.writeChecksum c).resets = s.resets := rfl
@[simp] theorem writeChecksum_script (c : Half) : (s.writeChecksum c).script = s.script := rfl
@[simp] theorem writeChecksum_returned (c : Half) : (s.writeChecksum c).returned = s.returned := rfl
@[simp] theorem writeChecksum_outcome (c : Half) : (s.writeChecksum c).outcome = s.outcome := rfl

@[simp] theorem shuffleBody_seed (g : Nat) : (s.shuffleBody g).seed = s.seed := rfl
@[simp] theorem shuffleBody_ks (g : Nat) : (s.shuffleBody g).ks = s.ks := rfl
@[simp] theorem shuffleBody_csum (g : Nat) : (s.shuffleBody g).csum = s.csum := rfl
@[simp] theorem shuffleBody_selSv (g : Nat) : (s.shuffleBody g).selSv = s.selSv := rfl
@[simp] theorem shuffleBody_selGroup (g : Nat) : (s.shuffleBody g).selGroup = s.selGroup := rfl
@[simp] theorem shuffleBody_len (g : Nat) : (s.shuffleBody g).len = s.len := rfl
@[simp] theorem shuffleBody_fault (g : Nat) : (s.shuffleBody g).fault = s.fault := rfl
@[simp] theorem shuffleBody_skip (g : Nat) : (s.shuffleBody g).skip = s.skip := rfl
@[simp] theorem shuffleBody_finfo (g : Nat) : (s.shuffleBody g).finfo = s.finfo := rfl
@[simp] theorem shuffleBody_mem (g : Nat) : (s.shuffleBody g).mem = memStore s.mem 0x8 (permuteBlocks (s.loadBytes 0x8 0x140) (s.row g)) := rfl
@[simp] theorem shuffleBody_resets (g : Nat) : (s.shuffleBody g).resets = s.resets := rfl
@[simp] theorem shuffleBody_script (g : Nat) : (s.shuffleBody g).script = s.script := rfl
@[simp] theorem shuffleBody_returned (g : Nat) : (s.shuffleBody g).returned = s.returned := rfl
@[simp] theorem shuffleBody_outcome (g : Nat) : (s.shuffleBody g).outcome = s.outcome := rfl

@[simp] theorem cryptRegion_seed (x : Word) (a b : Nat) : (s.cryptRegion x a b).2.seed = s.seed := rfl
@[simp] theorem cryptRegion_ks (x : Word) (a b : Nat) : (s.cryptRegion x a b).2.ks = s.ks := rfl
@[simp] theorem cryptRegion_csum (x : Word) (a b : Nat) : (s.cryptRegion x a b).2.csum = s.csum := rfl
@[simp] theorem cryptRegion_selSv (x : Word) (a b : Nat) : (s.cryptRegion x a b).2.selSv = s.selSv := rfl
@[simp] theorem cryptRegion_selGroup (x : Word) (a b : Nat) : (s.cryptRegion x a b).2.selGroup = s.selGroup := rfl
@[simp] theorem cryptRegion_len (x : Word) (a b : Nat) : (s.cryptRegion x a b).2.len = s.len := rfl
@[simp] theorem cryptRegion_fault (x : Word) (a b : Nat) : (s.cryptRegion x a b).2.fault = s.fault := rfl
@[simp] theorem cryptRegion_skip (x : Word) (a b : Nat) : (s.cryptRegion x a b).2.skip = s.skip := rfl
@[simp] theorem cryptRegion_finfo (x : Word) (a b : Nat) : (s.cryptRegion x a b).2.finfo = s.finfo := rfl
@[simp] theorem cryptRegion_mem (x : Word) (a b : Nat) : (s.cryptRegion x a b).2.mem = memStore s.mem a (cipherBytes x (s.loadBytes a (b - a))).2 := rfl
@[simp] theorem cryptRegion_resets (x : Word) (a b : Nat) : (s.cryptRegion x a b).2.resets = s.resets := rfl
@[simp] theorem cryptRegion_script (x : Word) (a b : Nat) : (s.cryptRegion x a b).2.script = s.script := rfl
@[simp] theorem cryptRegion_returned (x : Word) (a b : Nat) : (s.cryptRegion x a b).2.returned = s.returned := rfl
@[simp] theorem cryptRegion_outcome (x : Word) (a b : Nat) : (s.cryptRegion x a b).2.outcome = s.outcome := rfl

@[simp] theorem cryptRegion_fst (x : Word) (a b : Nat) :
    (s.cryptRegion x a b).1 = (cipherBytes x (s.loadBytes a (b - a))).1 := rfl

@[simp] theorem cipherPass_seed (x : Word) : (s.cipherPass x).2.seed = s.seed := by
  unfold State.cipherPass; split <;> rfl
@[simp] theorem cipherPass_ks (x : Word) : (s.cipherPass x).2.ks = s.ks := by
  unfold State.cipherPass; split <;> rfl
@[simp] theorem cipherPass_csum (x : Word) : (s.cipherPass x).2.csum = s.csum := by
  unfold State.cipherPass; split <;> rfl
@[simp] theorem cipherPass_selSv (x : Word) : (s.cipherPass x).2.selSv = s.selSv := by
  unfold State.cipherPass; split <;> rfl
@[simp] theorem cipherPass_selGroup (x : Word) : (s.cipherPass x).2.selGroup = s.selGroup := by
  unfold State.cipherPass; split <;> rfl
@[simp] theorem cipherPass_len (x : Word) : (s.cipherPass x).2.len = s.len := by
  unfold State.cipherPass; split <;> rfl
@[simp] theorem cipherPass_fault (x : Word) : (s.cipherPass x).2.fault = s.fault := by
  unfold State.cipherPass; split <;> rfl
@[simp] theorem cipherPass_skip (x : Word) : (s.cipherPass x).2.skip = s.skip := by
  unfold State.cipherPass; split <;> rfl
@[simp] theorem cipherPass_finfo (x : Word) : (s.cipherPass x).2.finfo = s.finfo := by
  unfold State.cipherPass; split <;> rfl
@[simp] theorem cipherPass_resets (x : Word) : (s.cipherPass x).2.resets = s.resets := by
  unfold State.cipherPass; split <;> rfl
@[simp] theorem cipherPass_script (x : Word) : (s.cipherPass x).2.script = s.script := by
  unfold State.cipherPass; split <;> rfl
@[simp] theorem cipherPass_returned (x : Word) : (s.cipherPass x).2.returned = s.returned := by
  unfold State.cipherPass; split <;> rfl
@[simp] theorem cipherPass_outcome (x : Word) : (s.cipherPass x).2.outcome = s.outcome := by
  unfold State.cipherPass; split <;> rfl

@[simp] theorem raiseInvalidLength_eq : s.raiseInvalidLength = s.raise .invalidLength (lengthInfo s.len) := rfl

@[simp] theorem code_illegalCommand : FaultCode.illegalCommand.code = 1 := rfl
@[simp] theorem code_invalidLength : FaultCode.invalidLength.code = 2 := rfl
@[simp] theorem code_indexOutOfRange : FaultCode.indexOutOfRange.code = 3 := rfl
@[simp] theorem code_oddRegion : FaultCode.oddRegion.code = 4 := rfl
@[simp] theorem code_badTableEntry : FaultCode.badTableEntry.code = 5 := rfl

/-- What the body of an executed ENCRYPT leaves alone, and what it writes to the registers (R211). -/
theorem encryptBody_frame (s : State) :
    s.encryptBody =
      { s with
        mem := s.encryptBody.mem, csum := s.checksum, seed := s.encryptBody.seed
        selSv := selector s.ec, selGroup := s.bpi (selector s.ec).toNat } := by
  simp only [State.encryptBody, State.cipherPass]
  split <;> rfl

/-- What the body of an executed DECRYPT leaves alone, and what it writes to the registers (R221). -/
theorem decryptBody_frame (s : State) :
    s.decryptBody =
      { s with
        mem := s.decryptBody.mem, seed := s.decryptBody.seed
        selSv := selector s.ec, selGroup := (selector s.ec).setWidth 8 } := by
  simp only [State.decryptBody, State.cipherPass]
  split <;> rfl

@[simp] theorem encryptBody_ks : s.encryptBody.ks = s.ks := by rw [encryptBody_frame]
@[simp] theorem decryptBody_ks : s.decryptBody.ks = s.ks := by rw [decryptBody_frame]
@[simp] theorem encryptBody_csum : s.encryptBody.csum = s.checksum := by rw [encryptBody_frame]
@[simp] theorem decryptBody_csum : s.decryptBody.csum = s.csum := by rw [decryptBody_frame]
@[simp] theorem encryptBody_selSv : s.encryptBody.selSv = selector s.ec := by rw [encryptBody_frame]
@[simp] theorem decryptBody_selSv : s.decryptBody.selSv = selector s.ec := by rw [decryptBody_frame]
@[simp] theorem encryptBody_selGroup : s.encryptBody.selGroup = s.bpi (selector s.ec).toNat := by rw [encryptBody_frame]
@[simp] theorem decryptBody_selGroup : s.decryptBody.selGroup = (selector s.ec).setWidth 8 := by rw [decryptBody_frame]
@[simp] theorem encryptBody_len : s.encryptBody.len = s.len := by rw [encryptBody_frame]
@[simp] theorem decryptBody_len : s.decryptBody.len = s.len := by rw [decryptBody_frame]
@[simp] theorem encryptBody_fault : s.encryptBody.fault = s.fault := by rw [encryptBody_frame]
@[simp] theorem decryptBody_fault : s.decryptBody.fault = s.fault := by rw [decryptBody_frame]
@[simp] theorem encryptBody_skip : s.encryptBody.skip = s.skip := by rw [encryptBody_frame]
@[simp] theorem decryptBody_skip : s.decryptBody.skip = s.skip := by rw [decryptBody_frame]
@[simp] theorem encryptBody_finfo : s.encryptBody.finfo = s.finfo := by rw [encryptBody_frame]
@[simp] theorem decryptBody_finfo : s.decryptBody.finfo = s.finfo := by rw [decryptBody_frame]
@[simp] theorem encryptBody_resets : s.encryptBody.resets = s.resets := by rw [encryptBody_frame]
@[simp] theorem decryptBody_resets : s.decryptBody.resets = s.resets := by rw [decryptBody_frame]
@[simp] theorem encryptBody_script : s.encryptBody.script = s.script := by rw [encryptBody_frame]
@[simp] theorem decryptBody_script : s.decryptBody.script = s.script := by rw [decryptBody_frame]
@[simp] theorem encryptBody_returned : s.encryptBody.returned = s.returned := by rw [encryptBody_frame]
@[simp] theorem decryptBody_returned : s.decryptBody.returned = s.returned := by rw [decryptBody_frame]
@[simp] theorem encryptBody_outcome : s.encryptBody.outcome = s.outcome := by rw [encryptBody_frame]
@[simp] theorem decryptBody_outcome : s.decryptBody.outcome = s.outcome := by rw [decryptBody_frame]

end Sys2Proof.Laws
end

