-- ==== Sys2Proof/Laws/Memory.lean ====
section
/-! SUPPORT. Storage: what a store leaves to be read, that it keeps the canonical form, and that two memories in that
form which read alike are equal. -/

namespace Sys2Proof.Laws
open Sys2Proof Sys2Proof.Machine

@[simp] theorem memLookup_nil (a : Nat) : memLookup [] a = none := rfl

theorem memLookup_cons (k : Nat) (v : Byte) (m : Memory) (a : Nat) :
    memLookup ((k, v) :: m) a = if k = a then some v else memLookup m a := rfl

theorem memLookup_append (m n : Memory) (a : Nat) :
    memLookup (m ++ n) a = (memLookup m a).or (memLookup n a) := by
  induction m with
  | nil => simp
  | cons c m ih =>
    obtain ⟨k, v⟩ := c
    simp only [List.cons_append, memLookup_cons]
    split <;> simp_all

theorem memLookup_filter (p : Nat → Bool) (m : Memory) (a : Nat) :
    memLookup (m.filter (fun c => p c.1)) a = if p a then memLookup m a else none := by
  induction m with
  | nil => simp
  | cons c m ih =>
    obtain ⟨k, v⟩ := c
    by_cases hk : p k = true <;> by_cases hka : k = a <;> simp_all [memLookup_cons]

theorem memLookup_memCells (a : Nat) (vs : List Byte) (b : Nat) :
    memLookup (memCells a vs) b = if a ≤ b ∧ isStorage b then vs[b - a]? else none := by
  induction vs generalizing a with
  | nil => simp [memCells]
  | cons v vs ih =>
    have step : ∀ h : a < b, (v :: vs)[b - a]? = vs[b - (a + 1)]? := fun h => by
      obtain ⟨k, rfl⟩ : ∃ k, b = a + k + 1 := ⟨b - a - 1, by omega⟩
      simp [show a + k + 1 - a = k + 1 by omega, show a + k + 1 - (a + 1) = k by omega]
    simp only [memCells]
    by_cases hs : isStorage a = true
    · rw [if_pos hs, memLookup_cons, ih]
      by_cases hab : a = b
      · subst hab; simp [hs]
      · by_cases hlt : a < b
        · simp [hab, step hlt, show a ≤ b by omega, show a + 1 ≤ b by omega]
        · simp [hab, show ¬ a ≤ b by omega, show ¬ a + 1 ≤ b by omega]
    · rw [if_neg hs, ih]
      by_cases hab : a = b
      · subst hab; simp [hs]
      · by_cases hlt : a < b
        · simp [step hlt, show a ≤ b by omega, show a + 1 ≤ b by omega]
        · simp [show ¬ a ≤ b by omega, show ¬ a + 1 ≤ b by omega]

/-- A store, read back: inside it the byte stored (where storage stands), outside it what was there. -/
theorem memLookup_memStore (m : Memory) (a : Nat) (vs : List Byte) (b : Nat) :
    memLookup (memStore m a vs) b =
      if a ≤ b ∧ b < a + vs.length then (if isStorage b then vs[b - a]? else none) else memLookup m b := by
  have below := memLookup_filter (fun k => decide (k < a)) m b
  have above := memLookup_filter (fun k => decide (a + vs.length ≤ k)) m b
  simp only [memStore, memLookup_append, memLookup_memCells, below, above, decide_eq_true_eq]
  by_cases h₁ : b < a
  · have h₂ : ¬ a + vs.length ≤ b := by omega
    have h₃ : ¬ a ≤ b := by omega
    simp [h₁, h₂, h₃]
  · have h₃ : a ≤ b := by omega
    by_cases h₂ : a + vs.length ≤ b
    · have h₄ : ¬ b < a + vs.length := by omega
      have h₅ : vs[b - a]? = none := by simp; omega
      simp [h₁, h₂, h₄, h₅]
    · have h₄ : b < a + vs.length := by omega
      by_cases hs : isStorage b = true <;> simp [h₁, h₂, h₃, h₄, hs]

theorem mem_memCells_bounds {a : Nat} {vs : List Byte} {c : Host.Cell} (h : c ∈ memCells a vs) :
    a ≤ c.1 ∧ c.1 < a + vs.length ∧ isStorage c.1 = true := by
  induction vs generalizing a with
  | nil => simp [memCells] at h
  | cons v vs ih =>
    simp only [memCells] at h
    split at h
    · rcases List.mem_cons.1 h with rfl | h
      · simp_all
      · have := ih h; simp only [List.length_cons]; exact ⟨by omega, by omega, this.2.2⟩
    · have := ih h; simp only [List.length_cons]; exact ⟨by omega, by omega, this.2.2⟩

theorem memCells_rising (a : Nat) (vs : List Byte) : (memCells a vs).Pairwise (fun c d => c.1 < d.1) := by
  induction vs generalizing a with
  | nil => simp [memCells]
  | cons v vs ih =>
    simp only [memCells]
    split
    · refine List.pairwise_cons.2 ⟨fun d hd => ?_, ih _⟩
      have := mem_memCells_bounds hd
      show a < d.1
      omega
    · exact ih _

/-- Every store keeps the canonical form. -/
theorem memStore_wf {m : Memory} (h : Memory.wf m) (a : Nat) (vs : List Byte) : Memory.wf (memStore m a vs) := by
  obtain ⟨rising, storage⟩ := h
  constructor
  · refine List.pairwise_append.2 ⟨List.pairwise_append.2 ⟨rising.filter _, memCells_rising a vs, ?_⟩, rising.filter _, ?_⟩
    · intro c hc d hd
      have := mem_memCells_bounds hd
      simp only [List.mem_filter, decide_eq_true_eq] at hc
      omega
    · intro c hc d hd
      simp only [List.mem_filter, decide_eq_true_eq] at hd
      rcases List.mem_append.1 hc with hc | hc
      · simp only [List.mem_filter, decide_eq_true_eq] at hc
        omega
      · have := mem_memCells_bounds hc
        omega
  · intro c hc
    rcases List.mem_append.1 hc with hc | hc
    · rcases List.mem_append.1 hc with hc | hc
      · exact storage c (List.mem_filter.1 hc).1
      · exact (mem_memCells_bounds hc).2.2
    · exact storage c (List.mem_filter.1 hc).1

theorem reset_mem_wf : Memory.wf State.reset.mem := by decide

theorem storeBytes_wf {s : State} (h : Memory.wf s.mem) (a : Nat) (vs : List Byte) :
    Memory.wf (s.storeBytes a vs).mem := memStore_wf h a vs

theorem memWrite_wf {s : State} (h : Memory.wf s.mem) (a n : Nat) (v : Word) :
    Memory.wf (s.memWrite a n v).mem := memStore_wf h a _

theorem writeChecksum_wf {s : State} (h : Memory.wf s.mem) (c : Half) : Memory.wf (s.writeChecksum c).mem :=
  memStore_wf h _ _

theorem shuffleBody_wf {s : State} (h : Memory.wf s.mem) (g : Nat) : Memory.wf (s.shuffleBody g).mem :=
  memStore_wf h _ _

theorem cryptRegion_wf {s : State} (h : Memory.wf s.mem) (x : Word) (a b : Nat) :
    Memory.wf (s.cryptRegion x a b).2.mem := memStore_wf h _ _

theorem cipherPass_wf {s : State} (h : Memory.wf s.mem) (x : Word) : Memory.wf (s.cipherPass x).2.mem := by
  unfold State.cipherPass
  split
  · exact cryptRegion_wf (cryptRegion_wf h _ _ _) _ _ _
  · exact cryptRegion_wf h _ _ _

theorem resetBlock_wf (s : State) : Memory.wf s.resetBlock.mem := reset_mem_wf

theorem memLookup_eq_none_of_lt {m : Memory} {a : Nat} (h : ∀ c ∈ m, a < c.1) : memLookup m a = none := by
  induction m with
  | nil => rfl
  | cons c m ih =>
    obtain ⟨k, v⟩ := c
    have hk : a < k := h (k, v) (by simp)
    rw [memLookup_cons, if_neg (by omega), ih fun c hc => h c (by simp [hc])]

/-- Two memories with rising addresses that read alike at every address are equal. -/
theorem memory_ext {m n : Memory} (hm : m.Pairwise (fun c d => c.1 < d.1)) (hn : n.Pairwise (fun c d => c.1 < d.1))
    (h : ∀ a, memLookup m a = memLookup n a) : m = n := by
  induction m generalizing n with
  | nil =>
    cases n with
    | nil => rfl
    | cons c n => obtain ⟨k, v⟩ := c; have := h k; simp [memLookup_cons] at this
  | cons c m ih =>
    obtain ⟨k, v⟩ := c
    cases n with
    | nil => have := h k; simp [memLookup_cons] at this
    | cons d n =>
      obtain ⟨l, w⟩ := d
      have hm' := List.pairwise_cons.1 hm
      have hn' := List.pairwise_cons.1 hn
      have hkl : k = l := by
        rcases Nat.lt_trichotomy k l with hlt | heq | hgt
        · have hk := h k
          rw [memLookup_cons, memLookup_cons, if_pos rfl, if_neg (by omega),
            memLookup_eq_none_of_lt fun c hc => by have := hn'.1 c hc; simp only at this; omega] at hk
          simp at hk
        · exact heq
        · have hl := h l
          rw [memLookup_cons, memLookup_cons, if_pos rfl, if_neg (by omega),
            memLookup_eq_none_of_lt fun c hc => by have := hm'.1 c hc; simp only at this; omega] at hl
          simp at hl
      subst hkl
      have hv : v = w := by have := h k; simpa [memLookup_cons] using this
      subst hv
      congr 1
      refine ih hm'.2 hn'.2 fun a => ?_
      by_cases ha : k = a
      · subst ha
        rw [memLookup_eq_none_of_lt hm'.1, memLookup_eq_none_of_lt hn'.1]
      · have := h a; simpa [memLookup_cons, ha] using this

/-- A byte inside a store reads as stored. -/
theorem byte_storeBytes_inside (s : State) (a : Nat) (vs : List Byte) (j : Nat) (hj : j < vs.length)
    (hs : isStorage (a + j) = true) : (s.storeBytes a vs).byte (a + j) = vs[j] := by
  simp [State.byte, memLookup_memStore, hs, hj]

/-- A byte outside a store reads as before. -/
theorem byte_storeBytes_outside (s : State) (a : Nat) (vs : List Byte) (b : Nat)
    (h : b < a ∨ a + vs.length ≤ b) : (s.storeBytes a vs).byte b = s.byte b := by
  have hn : ¬ (a ≤ b ∧ b < a + vs.length) := by omega
  simp only [State.byte, storeBytes_mem, storeBytes_resets, memLookup_memStore, if_neg hn]

@[simp] theorem loadBytes_length (s : State) (a n : Nat) : (s.loadBytes a n).length = n := by
  simp [State.loadBytes]

@[simp] theorem loadBytes_getElem (s : State) (a n j : Nat) (h : j < (s.loadBytes a n).length) :
    (s.loadBytes a n)[j] = s.byte (a + j) := by
  simp [State.loadBytes]

/-- What a region reads depends on its bytes alone. -/
theorem loadBytes_congr {s t : State} (a n : Nat) (h : ∀ b, a ≤ b → b < a + n → s.byte b = t.byte b) :
    s.loadBytes a n = t.loadBytes a n := by
  simp only [State.loadBytes]
  exact List.map_congr_left fun b hb => h b (by simp at hb; omega) (by simp at hb; omega)

@[simp] theorem wordBytes_length (n : Nat) (v : Word) : (wordBytes n v).length = n := by simp [wordBytes]

/-- Reads depend on storage and on which free contents it started from, and on nothing else. -/
theorem byte_congr {s t : State} (hm : s.mem = t.mem) (hr : s.resets = t.resets) (a : Nat) : s.byte a = t.byte a := by
  simp [State.byte, hm, hr]

end Sys2Proof.Laws
end

