-- ==== Sys2Proof/Laws/Operations.lean ====
section
/-! SUPPORT. What the shared operations of the commands can do: the cipher, the permutation, the row check. -/

namespace Sys2Proof.Laws
open Sys2Proof Sys2Proof.Machine

@[simp] theorem cipherBytes_length (x : Word) (bs : List Byte) : (cipherBytes x bs).2.length = bs.length := by
  induction x, bs using cipherBytes.induct with
  | case1 x lo hi rest next ih => simp only [cipherBytes, List.length_cons]; simpa using ih
  | case2 x rest h =>
    rw [cipherBytes]
    exact h

/-- A whole number of pairs ciphers as its first pair, then the rest from the next LCG state (R140). -/
theorem cipherBytes_pair (x : Word) (lo hi : Byte) (rest : List Byte) :
    cipherBytes x (lo :: hi :: rest) =
      ((cipherBytes (lcg x) rest).1,
        (lo ^^^ byteLo (lcg x)) :: (hi ^^^ byteHi (lcg x)) :: (cipherBytes (lcg x) rest).2) := by
  rw [cipherBytes]

@[simp] theorem cipherBytes_nil (x : Word) : cipherBytes x [] = (x, []) := by
  rw [cipherBytes]
  simp

/-- The source blocks of a row whose entries are in range copy whole blocks (R160). -/
theorem permuteBlocks_length (snap : List Byte) (sources : List Nat) (hl : snap.length = 0x140)
    (h : ∀ b ∈ sources, b ≤ 3) : (permuteBlocks snap sources).length = 0x50 * sources.length := by
  induction sources with
  | nil => simp [permuteBlocks]
  | cons b bs ih =>
    have hb : b ≤ 3 := h b (by simp)
    have ih := ih fun c hc => h c (by simp [hc])
    simp only [permuteBlocks, List.flatMap_cons, List.length_append, List.length_take, List.length_drop,
      List.length_cons] at ih ⊢
    omega

/-- `check_row` finds nothing exactly when the row's four entries are in range (R161). -/
theorem checkRow_eq_none_iff (s : State) (g : Nat) :
    s.checkRow g = none ↔ ∀ k < 4, (s.bp (4 * g + k)).toNat ≤ 3 := by
  simp [State.checkRow, List.find?_eq_none]

/-- When `check_row` reports, it reports the first entry above 3 (R161). -/
theorem checkRow_eq_some {s : State} {g : Nat} {info : Word} (h : s.checkRow g = some info) :
    ∃ k < 4, 3 < (s.bp (4 * g + k)).toNat ∧ (∀ j < k, (s.bp (4 * g + j)).toNat ≤ 3) ∧
      info = tableInfo (s.bp (4 * g + k)) 0x00 (BitVec.ofNat 8 (4 * g + k)) := by
  simp only [State.checkRow, Option.map_eq_some_iff] at h
  obtain ⟨k, hk, rfl⟩ := h
  rw [List.find?_range_eq_some] at hk
  obtain ⟨hbad, hmem, hfirst⟩ := hk
  refine ⟨k, by simpa using hmem, by simpa using hbad, fun j hj => ?_, rfl⟩
  simpa using hfirst j hj

/-- `check_encrypt_tables` finds nothing exactly when the BPI entry and its row are in range (R210). -/
theorem checkEncryptTables_eq_none_iff (s : State) (sv : BitVec 5) :
    s.checkEncryptTables sv = none ↔
      (s.bpi sv.toNat).toNat ≤ 31 ∧ ∀ k < 4, (s.bp (4 * (s.bpi sv.toNat).toNat + k)).toNat ≤ 3 := by
  unfold State.checkEncryptTables
  split
  · simp only [reduceCtorEq, false_iff]; omega
  · rw [checkRow_eq_none_iff]; constructor
    · intro h; exact ⟨by omega, h⟩
    · exact fun h => h.2

/-- A region cipher leaves every byte outside its region (R140). -/
theorem cryptRegion_byte_outside (s : State) (x : Word) {start stop : Nat} (h : start ≤ stop) {a : Nat}
    (ha : a < start ∨ stop ≤ a) : (s.cryptRegion x start stop).2.byte a = s.byte a :=
  byte_storeBytes_outside s start _ a (by simp only [cipherBytes_length, loadBytes_length]; omega)

/-- A shuffle by a row in range leaves every byte outside the body (R160). -/
theorem shuffleBody_byte_outside {s : State} {g : Nat} (h : s.checkRow g = none) {a : Nat} (ha : a < 0x8 ∨ 0x148 ≤ a) :
    (s.shuffleBody g).byte a = s.byte a := by
  have hrow := (checkRow_eq_none_iff s g).1 h
  have hlen : (permuteBlocks (s.loadBytes 0x8 0x140) (s.row g)).length = 0x140 := by
    rw [permuteBlocks_length _ _ (by simp) fun b hb => ?_]
    · simp [State.row]
    · simp only [State.row, List.mem_map, List.mem_range] at hb
      obtain ⟨k, hk, rfl⟩ := hb
      exact hrow k hk
  exact byte_storeBytes_outside s 0x8 _ a (by omega)

/-- Writing the checksum field leaves every byte but its two (R186). -/
theorem writeChecksum_byte_outside (s : State) (c : Half) {a : Nat} (ha : a < 0x6 ∨ 0x8 ≤ a) :
    (s.writeChecksum c).byte a = s.byte a :=
  byte_storeBytes_outside s 0x6 _ a (by simp only [wordBytes_length]; omega)

/-- The cipher pass leaves every byte outside [0x8, CEND) (R62, R210 step 7). -/
theorem cipherPass_byte_outside (s : State) (x : Word) {a : Nat} (ha : a < 0x8 ∨ s.cend ≤ a) :
    (s.cipherPass x).2.byte a = s.byte a := by
  unfold State.cipherPass
  by_cases hl : s.len = 0x158
  · have hc : s.cend = 0x158 := if_pos hl
    rw [if_pos hl, cryptRegion_byte_outside _ _ (by omega) (by omega), cryptRegion_byte_outside _ _ (by omega) (by omega)]
  · have hc : s.cend = 0x148 := if_neg hl
    rw [if_neg hl, cryptRegion_byte_outside _ _ (by omega) (by omega)]

/-- `CEND` depends on LEN.VALUE alone (R15). -/
theorem cend_congr {s t : State} (h : t.len = s.len) : t.cend = s.cend := by
  unfold State.cend
  rw [h]

/-- `CEND` lies between the two legal lengths, whatever LEN holds (R15). -/
theorem cend_bounds (s : State) : 0x148 ≤ s.cend ∧ s.cend ≤ 0x158 := by
  unfold State.cend
  split <;> omega

/-- Whether a row is in range depends on its four bytes alone. -/
theorem checkRow_eq_none_congr {s t : State} {g : Nat} (h : ∀ k < 4, t.bp (4 * g + k) = s.bp (4 * g + k)) :
    t.checkRow g = none ↔ s.checkRow g = none := by
  simp only [checkRow_eq_none_iff]
  exact forall₂_congr fun k hk => by rw [h k hk]

/-- The body of ENCRYPT leaves every byte outside [0x6, CEND) (R62). -/
theorem encryptBody_byte_outside {s : State} (h : s.checkRow (s.bpi (selector s.ec).toNat).toNat = none) {a : Nat}
    (ha : a < 0x6 ∨ s.cend ≤ a) : s.encryptBody.byte a = s.byte a := by
  have hb := cend_bounds s
  have hrow : (s.writeChecksum s.checksum).checkRow (s.bpi (selector s.ec).toNat).toNat = none :=
    (checkRow_eq_none_congr fun k _ => writeChecksum_byte_outside s _ (by omega)).2 h
  have step : s.encryptBody.byte a =
      (((s.writeChecksum s.checksum).shuffleBody (s.bpi (selector s.ec).toNat).toNat).cipherPass s.ec).2.byte a :=
    byte_congr rfl (by simp) a
  have hc : ((s.writeChecksum s.checksum).shuffleBody (s.bpi (selector s.ec).toNat).toNat).cend = s.cend :=
    cend_congr (by simp)
  rw [step, cipherPass_byte_outside _ _ (by omega),
    shuffleBody_byte_outside hrow (by omega), writeChecksum_byte_outside _ _ (by omega)]

/-- The body of DECRYPT leaves every byte outside [0x8, CEND) (R62). -/
theorem decryptBody_byte_outside {s : State} (h : s.checkRow (selector s.ec).toNat = none) {a : Nat}
    (ha : a < 0x8 ∨ s.cend ≤ a) : s.decryptBody.byte a = s.byte a := by
  have hb := cend_bounds s
  have hrow : (s.cipherPass s.ec).2.checkRow (selector s.ec).toNat = none :=
    (checkRow_eq_none_congr fun k _ => cipherPass_byte_outside s _ (by omega)).2 h
  have step : s.decryptBody.byte a = ((s.cipherPass s.ec).2.shuffleBody (selector s.ec).toNat).byte a :=
    byte_congr rfl (by simp) a
  rw [step, shuffleBody_byte_outside hrow (by omega), cipherPass_byte_outside _ _ ha]

/-- The heuristic in terms of its two bytes (R200). -/
theorem encFlag_eq_true_iff (s : State) : s.encFlag = true ↔ s.byte 0x70 ≠ 0 ∧ s.byte 0xC0 ≠ 0 := by
  simp [State.encFlag]

/-- The legal lengths (R15, R27). -/
theorem lenOk_eq_true_iff (s : State) : s.lenOk = true ↔ s.len = 0x148 ∨ s.len = 0x158 := by
  simp [State.lenOk]

end Sys2Proof.Laws
end

