-- ==== Sys2Proof/Laws/Exec.lean ====
section
/-! SUPPORT. Everything each command can do: the cases of every meaning, and what any command may change. -/

namespace Sys2Proof.Laws
open Sys2Proof Sys2Proof.Machine

theorem execNop_cases {s t : State} (h : execNop s = .next t) : t = s.complete := by
  simpa [execNop] using h.symm

theorem execAdvance_cases {s t : State} (h : execAdvance s = .next t) :
    t = { s with seed := lcg s.seed, ks := byteHi (lcg s.seed) ++ byteLo (lcg s.seed) }.complete := by
  simpa [execAdvance] using h.symm

theorem execCrypt_cases {start stop : Half} {s t : State} (h : execCrypt start stop s = .next t) :
    (s.lenOk = false ∧ t = s.raiseInvalidLength) ∨
    (s.lenOk = true ∧ (stop < start ∨ s.len < stop) ∧ t = s.raise .indexOutOfRange (rangeInfo start stop)) ∨
    (s.lenOk = true ∧ start ≤ stop ∧ stop ≤ s.len ∧ (stop.toNat - start.toNat) % 2 ≠ 0 ∧
      t = s.raise .oddRegion (rangeInfo start stop)) ∨
    (s.lenOk = true ∧ start ≤ stop ∧ stop ≤ s.len ∧ (stop.toNat - start.toNat) % 2 = 0 ∧
      t = { (s.cryptRegion s.seed start.toNat stop.toNat).2 with
        seed := (s.cryptRegion s.seed start.toNat stop.toNat).1 }.complete) := by
  unfold execCrypt at h
  split at h
  · cases h; exact .inl ⟨‹_›, rfl⟩
  · split at h
    · cases h; exact .inr (.inl ⟨by simp_all, ‹_›, rfl⟩)
    · rename_i hr
      have hr : start ≤ stop ∧ stop ≤ s.len := by simpa using hr
      split at h
      · cases h; exact .inr (.inr (.inl ⟨by simp_all, hr.1, hr.2, ‹_›, rfl⟩))
      · cases h; exact .inr (.inr (.inr ⟨by simp_all, hr.1, hr.2, by simp_all, rfl⟩))

theorem execShuffle_cases {group : Byte} {s t : State} (h : execShuffle group s = .next t) :
    (s.lenOk = false ∧ t = s.raiseInvalidLength) ∨
    (∃ info, s.lenOk = true ∧ s.checkRow group.toNat = some info ∧ t = s.raise .badTableEntry info) ∨
    (s.lenOk = true ∧ s.checkRow group.toNat = none ∧ t = (s.shuffleBody group.toNat).complete) := by
  unfold execShuffle at h
  split at h
  · cases h; exact .inl ⟨‹_›, rfl⟩
  · split at h
    · cases h; exact .inr (.inl ⟨_, by simp_all, ‹_›, rfl⟩)
    · cases h; exact .inr (.inr ⟨by simp_all, ‹_›, rfl⟩)

theorem execChecksum_cases {s t : State} (h : execChecksum s = .next t) :
    (s.lenOk = false ∧ t = s.raiseInvalidLength) ∨
    (s.lenOk = true ∧ t = { s with csum := s.checksum }.complete) := by
  unfold execChecksum at h
  split at h
  · cases h; exact .inl ⟨‹_›, rfl⟩
  · cases h; exact .inr ⟨by simp_all, rfl⟩

theorem execRefresh_cases {s t : State} (h : execRefresh s = .next t) :
    (s.lenOk = false ∧ t = s.raiseInvalidLength) ∨
    (s.lenOk = true ∧ t = { s.writeChecksum s.checksum with csum := s.checksum }.complete) := by
  unfold execRefresh at h
  split at h
  · cases h; exact .inl ⟨‹_›, rfl⟩
  · cases h; exact .inr ⟨by simp_all, rfl⟩

theorem execEncrypt_cases {s t : State} (h : execEncrypt s = .next t) :
    (s.lenOk = false ∧ t = s.raiseInvalidLength) ∨
    (s.lenOk = true ∧ s.encFlag = true ∧ t = s.skipCommand) ∨
    (∃ info, s.lenOk = true ∧ s.encFlag = false ∧ s.checkEncryptTables (selector s.ec) = some info ∧
      t = s.raise .badTableEntry info) ∨
    (s.lenOk = true ∧ s.encFlag = false ∧ s.checkEncryptTables (selector s.ec) = none ∧
      t = s.encryptBody.complete) := by
  unfold execEncrypt at h
  split at h
  · cases h; exact .inl ⟨‹_›, rfl⟩
  · split at h
    · cases h; exact .inr (.inl ⟨by simp_all, ‹_›, rfl⟩)
    · split at h
      · cases h; exact .inr (.inr (.inl ⟨_, by simp_all, by simp_all, ‹_›, rfl⟩))
      · cases h; exact .inr (.inr (.inr ⟨by simp_all, by simp_all, ‹_›, rfl⟩))

theorem execDecrypt_cases {s t : State} (h : execDecrypt s = .next t) :
    (s.lenOk = false ∧ t = s.raiseInvalidLength) ∨
    (s.lenOk = true ∧ s.encFlag = false ∧ t = s.skipCommand) ∨
    (∃ info, s.lenOk = true ∧ s.encFlag = true ∧ s.checkRow (selector s.ec).toNat = some info ∧
      t = s.raise .badTableEntry info) ∨
    (s.lenOk = true ∧ s.encFlag = true ∧ s.checkRow (selector s.ec).toNat = none ∧
      t = s.decryptBody.complete) := by
  unfold execDecrypt at h
  split at h
  · cases h; exact .inl ⟨‹_›, rfl⟩
  · split at h
    · cases h; exact .inr (.inl ⟨by simp_all, ‹_›, rfl⟩)
    · split at h
      · cases h; exact .inr (.inr (.inl ⟨_, by simp_all, by simp_all, ‹_›, rfl⟩))
      · cases h; exact .inr (.inr (.inr ⟨by simp_all, by simp_all, ‹_›, rfl⟩))

theorem encryptBody_wf {s : State} (h : Memory.wf s.mem) : Memory.wf s.encryptBody.mem :=
  cipherPass_wf (shuffleBody_wf (writeChecksum_wf h _) _) _

theorem decryptBody_wf {s : State} (h : Memory.wf s.mem) : Memory.wf s.decryptBody.mem :=
  shuffleBody_wf (cipherPass_wf h _) _

end Sys2Proof.Laws
end

