-- ==== Sys2Proof/Laws/HostBus.lean ====
section
/-! SUPPORT. What one step can do: the address map slot by slot, and the cases of a transaction. -/

namespace Sys2Proof.Laws
open Sys2Proof Sys2Proof.Machine

@[simp] theorem targetOf_cmd : targetOf (slotAt 0x300) = .cmd := by decide
@[simp] theorem targetOf_status : targetOf (slotAt 0x304) = .status := by decide
@[simp] theorem targetOf_ctrl : targetOf (slotAt 0x308) = .ctrl := by decide
@[simp] theorem targetOf_finfo : targetOf (slotAt 0x30C) = .finfo := by decide
@[simp] theorem targetOf_len : targetOf (slotAt 0x310) = .len := by decide
@[simp] theorem targetOf_seed : targetOf (slotAt 0x314) = .seed := by decide
@[simp] theorem targetOf_ks : targetOf (slotAt 0x318) = .ks := by decide
@[simp] theorem targetOf_csum : targetOf (slotAt 0x31C) = .csum := by decide
@[simp] theorem targetOf_sel : targetOf (slotAt 0x320) = .sel := by decide

theorem slotOffset_slotAt {a : Nat} (h : a < 0x400) (h4 : a % 4 = 0) : slotOffset (slotAt a) = a := by
  simp only [slotOffset, slotAt, BitVec.toNat_ofNat]
  omega

theorem isStorage_iff (a : Nat) : isStorage a = true ↔ a < 0x158 ∨ (0x200 ≤ a ∧ a < 0x2A0) := by
  simp [isStorage]

theorem targetOf_storage {a : Nat} (h : isStorage a = true) (h4 : a % 4 = 0) : targetOf (slotAt a) = .storage a := by
  have hb := (isStorage_iff a).1 h
  have ha : slotOffset (slotAt a) = a := slotOffset_slotAt (by omega) h4
  simp only [targetOf, ha, h, if_true]

theorem targetOf_eq_cmd_iff (slot : BitVec 8) : targetOf slot = .cmd ↔ slot = slotAt 0x300 := by
  revert slot; decide +kernel

theorem targetOf_eq_ctrl_iff (slot : BitVec 8) : targetOf slot = .ctrl ↔ slotOffset slot = 0x308 := by
  revert slot; decide +kernel

theorem step_nil {s : State} (h : s.script = []) : step s = .next s := by simp [step, busStep, h]

theorem step_cons {s : State} {x : Transaction} {rest : List Transaction} (h : s.script = x :: rest) :
    step s = transact x { s with script := rest } := by simp [step, busStep, h]

theorem issue_dropped {s : State} (h : s.fault ≠ 0) (w : Word) : issue w s = .next s.dropCommand := by
  rw [issue, if_pos h]

theorem issue_illegal {s : State} {w : Word} {why : IllegalWord} (h : s.fault = 0) (hw : decode w = .illegal why) :
    issue w s = .next (s.raise .illegalCommand w) := by simp [issue, h, hw]

theorem issue_command {s : State} {w : Word} {i : Instr} (h : s.fault = 0) (hw : decode w = .command i) :
    issue w s = exec i s := by simp [issue, h, hw]

theorem transact_cmd (w : Word) (s : State) : transact (.write (slotAt 0x300) w) s = issue w s := by
  simp [transact]

theorem transact_write {slot : BitVec 8} (h : targetOf slot ≠ .cmd) (d : Word) (s : State) :
    transact (.write slot d) s = .next (s.hostWrite (targetOf slot) d) := by
  cases ht : targetOf slot <;> simp_all [transact]

/-- Everything a step can do: nothing when the script is empty; otherwise the next transaction, which is a command that is
dropped, illegal or run, another host write, a host read, or reset. -/
theorem step_cases {s t : State} (h : step s = .next t) :
    (s.script = [] ∧ t = s) ∨
    ∃ x rest, s.script = x :: rest ∧
      ((∃ w, x = .write (slotAt 0x300) w ∧ s.fault ≠ 0 ∧ t = State.dropCommand { s with script := rest }) ∨
       (∃ w why, x = .write (slotAt 0x300) w ∧ s.fault = 0 ∧ decode w = .illegal why ∧
          t = State.raise { s with script := rest } .illegalCommand w) ∨
       (∃ w i, x = .write (slotAt 0x300) w ∧ s.fault = 0 ∧ decode w = .command i ∧
          exec i { s with script := rest } = .next t) ∨
       (∃ slot d, x = .write slot d ∧ targetOf slot ≠ .cmd ∧
          t = State.hostWrite { s with script := rest } (targetOf slot) d) ∨
       (∃ slot, x = .read slot ∧
          t = { s with script := rest, returned := s.returned ++ [s.hostRead (targetOf slot)] }) ∨
       (x = .reset ∧ t = State.resetBlock { s with script := rest })) := by
  cases hs : s.script with
  | nil => rw [step_nil hs] at h; cases h; exact .inl ⟨rfl, rfl⟩
  | cons x rest =>
    rw [step_cons hs] at h
    refine .inr ⟨x, rest, rfl, ?_⟩
    cases x with
    | write slot d =>
      by_cases hc : targetOf slot = .cmd
      · obtain rfl := (targetOf_eq_cmd_iff slot).1 hc
        rw [transact_cmd] at h
        by_cases hf : s.fault = 0
        · cases hd : decode d with
          | illegal why =>
            rw [issue_illegal (s := { s with script := rest }) hf hd] at h
            cases h; exact .inr (.inl ⟨d, why, rfl, hf, hd, rfl⟩)
          | command i =>
            rw [issue_command (s := { s with script := rest }) hf hd] at h
            exact .inr (.inr (.inl ⟨d, i, rfl, hf, hd, h⟩))
        · rw [issue_dropped (s := { s with script := rest }) hf] at h
          cases h; exact .inl ⟨d, rfl, hf, rfl⟩
      · rw [transact_write hc] at h
        cases h; exact .inr (.inr (.inr (.inl ⟨slot, d, rfl, hc, rfl⟩)))
    | read slot =>
      cases h; exact .inr (.inr (.inr (.inr (.inl ⟨slot, rfl, rfl⟩))))
    | reset =>
      cases h; exact .inr (.inr (.inr (.inr (.inr ⟨rfl, rfl⟩))))

end Sys2Proof.Laws
end

