-- ==== Sys2Proof/Laws/PerInstr.lean ====
section
/-! SUPPORT. Statements about every command as syntax, one lemma per constructor. -/

namespace Sys2Proof.Laws.WordFields
open Sys2Proof Sys2Proof.Laws

/-- The word of a command carries its opcode in OP and its operands in A and B, and its fields Z1 and Z2 are zero
(30_encoding.md R81, R84). -/
def Statement (i : Instr) : Prop :=
  opField (encode i) = opcodeOf i ∧ (encode i).extractLsb' 8 9 = fieldA i ∧ (encode i).extractLsb' 17 9 = fieldB i ∧
    (encode i).extractLsb' 4 4 = 0 ∧ (encode i).extractLsb' 26 6 = 0

theorem of_fields (i : Instr) : Statement i :=
  ⟨enc_op _ _ _, enc_a _ _ _, enc_b _ _ _, enc_z1 _ _ _, enc_z2 _ _ _⟩

theorem nop : Statement .nop := of_fields _
theorem advance : Statement .advance := of_fields _
theorem crypt (start stop : Half) : Statement (.crypt start stop) := of_fields _
theorem shuffle (group : Byte) : Statement (.shuffle group) := of_fields _
theorem checksum : Statement .checksum := of_fields _
theorem refresh : Statement .refresh := of_fields _
theorem encrypt : Statement .encrypt := of_fields _
theorem decrypt : Statement .decrypt := of_fields _

end Sys2Proof.Laws.WordFields
end

