-- ==== Sys2Proof/Tests/Slice0.lean ====
section
/-! SUPPORT. Tests: expected values come from the spec's vectors (95_test_vectors.md) and rule examples, words are written
out bit by bit from 30_encoding.md R81, and every statement with hypotheses has a witness that meets them. -/

namespace Sys2Proof.Tests
open Sys2Proof Sys2Proof.Machine

/-- Does the outcome give a next state with the property? -/
def nextIs (o : Host.Outcome State Fault Refusal) (p : State → Bool) : Bool :=
  match o with
  | .next t => p t
  | .fault _ | .refused _ => false

theorem exists_of_nextIs {o : Host.Outcome State Fault Refusal} {p : State → Bool} (h : nextIs o p = true) :
    ∃ t, o = .next t ∧ p t = true := by
  cases o with
  | next t => exact ⟨t, rfl, h⟩
  | fault r => cases r
  | refused r => cases h

/-! ### Well-formedness and encoding -/

theorem test_illFormed_crypt_start : (Instr.crypt 0x200 0x8).wellFormed = false := by decide
theorem test_illFormed_crypt_stop : (Instr.crypt 0x8 0x200).wellFormed = false := by decide
theorem test_illFormed_shuffle_group : (Instr.shuffle 32).wellFormed = false := by decide

/-- R81, R84: `Z2 B A Z1 OP`, the words of the eight rows. -/
theorem test_decode_nop : decode 0b000000_000000000_000000000_0000_0000 = .command .nop := by decide
theorem test_decode_advance : decode 0b000000_000000000_000000000_0000_0001 = .command .advance := by decide
theorem test_decode_crypt :
    decode 0b000000_101001000_000001000_0000_0010 = .command (.crypt 0x8 0x148) := by decide
theorem test_decode_crypt_all_ones :
    decode 0b000000_111111111_111111111_0000_0010 = .command (.crypt 0x1FF 0x1FF) := by decide
theorem test_decode_shuffle : decode 0b000000_000000000_000010100_0000_0011 = .command (.shuffle 20) := by decide
theorem test_decode_shuffle_last : decode 0b000000_000000000_000011111_0000_0011 = .command (.shuffle 31) := by decide
theorem test_decode_checksum : decode 0b000000_000000000_000000000_0000_0100 = .command .checksum := by decide
theorem test_decode_refresh : decode 0b000000_000000000_000000000_0000_0101 = .command .refresh := by decide
theorem test_decode_encrypt : decode 0b000000_000000000_000000000_0000_0110 = .command .encrypt := by decide
theorem test_decode_decrypt : decode 0b000000_000000000_000000000_0000_0111 = .command .decrypt := by decide
/-- FT1, FT2, CR12, SH10: words of no command. -/
theorem test_decode_illegal :
    decode 0x00000008 = .illegal .unassignedOpcode ∧ decode 0x00000011 = .illegal .reservedField ∧
      decode 0x00180812 = .illegal .reservedField ∧ decode 0x00002003 = .illegal .reservedField := by decide
theorem test_decodeTableWord : decodeTableWord 32 0x02B14802 = some (.crypt 0x148 0x158) ∧ decodeTableWord 32 0xF = none := by
  decide

/-! ### The small states of the tests -/

/-- LEN = 0x148, EC = 0x12345678 (so sv = 2), the heuristic bytes as given, BPI[2] = 9, row 9 = 3 0 1 2 and row 2 =
1 2 3 0, which undo each other (V-S SH3, SH4). Other bytes are unwritten. -/
def record (h70 hC0 : Byte) : State :=
  { State.reset with
    len := 0x148
    mem := memCells 0 [0x78, 0x56, 0x34, 0x12] ++ memCells 0x70 [h70] ++ memCells 0xC0 [hC0] ++
      memCells 0x208 [1, 2, 3, 0] ++ memCells 0x224 [3, 0, 1, 2] ++ memCells 0x282 [9] }

/-- V-T1's start: LEN = 0x148, EC = 0x12345678, every other byte of the record 0, BPI[2] = 2 and row 2 = 0 2 1 3. -/
def zeroRecord : State :=
  { State.reset with
    len := 0x148
    mem := memCells 0 ([0x78, 0x56, 0x34, 0x12] ++ List.replicate 0x144 0) ++
      memCells 0x208 [0, 2, 1, 3] ++ memCells 0x282 [2] }

def withScript (s : State) (p : List Transaction) : State := { s with script := p }

/-! ### Commands -/

/-- FT6. -/
theorem test_nop_clears_skip : nextIs (exec .nop { State.reset with skip := true }) (fun t => t.skip == false) = true := by
  decide

/-- V-K, R121's example. -/
theorem test_advance :
    nextIs (exec .advance { State.reset with seed := 0x12345678 })
      (fun t => t.seed == 0x0B71C18B && t.ks == 0x0B71) = true := by decide

/-- V-K: wrap from 0xFFFFFFFF. -/
theorem test_advance_wraps :
    nextIs (exec .advance { State.reset with seed := 0xFFFFFFFF }) (fun t => t.seed == 0xBE3A1206 && t.ks == 0xBE3A) =
      true := by decide

/-- CR1. -/
theorem test_crypt :
    nextIs (exec (.crypt 0x8 0xC) { State.reset with len := 0x148, mem := memCells 8 [0, 0, 0, 0] })
      (fun t => t.loadBytes 8 4 == [0x00, 0x00, 0x7E, 0xE9] && t.seed == 0xE97E7B6A) = true := by decide

/-- CR2: an odd start. -/
theorem test_crypt_odd_start :
    nextIs (exec (.crypt 0x9 0xB) { State.reset with len := 0x148, seed := 1, mem := memCells 8 [0, 0, 0, 0] })
      (fun t => t.loadBytes 8 4 == [0x00, 0xC6, 0x41, 0x00] && t.seed == 0x41C6AEE0) = true := by decide

/-- CR4, CR7, CR8. -/
theorem test_crypt_faults :
    nextIs (exec (.crypt 0x140 0x149) { State.reset with len := 0x148 })
        (fun t => t.fault == 3 && t.finfo == 0x01490140) = true ∧
      nextIs (exec (.crypt 0x7 0xA) { State.reset with len := 0x148 })
        (fun t => t.fault == 4 && t.finfo == 0x000A0007) = true ∧
      nextIs (exec (.crypt 0xA 0x8) { State.reset with len := 0x148 })
        (fun t => t.fault == 3 && t.finfo == 0x0008000A) = true := by decide

/-- SH3 on the first two bytes of each block. -/
theorem test_shuffle :
    nextIs (exec (.shuffle 9)
        { State.reset with
          len := 0x148
          mem := memCells 0x8 [0x11] ++ memCells 0x58 [0x22] ++ memCells 0xA8 [0x33] ++ memCells 0xF8 [0x44] ++
            memCells 0x224 [3, 0, 1, 2] })
      (fun t => [t.byte 0x8, t.byte 0x58, t.byte 0xA8, t.byte 0xF8] == [0x44, 0x11, 0x22, 0x33]) = true := by
  decide +kernel

/-- SH9. -/
theorem test_shuffle_bad_row :
    nextIs (exec (.shuffle 5) { State.reset with len := 0x148, mem := memCells 0x214 [0, 3, 4, 1] })
      (fun t => t.fault == 5 && t.finfo == 0x00040016) = true := by decide

/-- The bytes `i & 0xFF` from offset 8 on, with LEN = 0x148 (CS7). -/
def ramp : State :=
  { State.reset with len := 0x148, mem := memCells 8 ((List.range' 8 0x140).map (BitVec.ofNat 8)) }

/-- CS7. -/
theorem test_checksum : nextIs (exec .checksum ramp) (fun t => t.csum == 0x4460) = true := by decide +kernel

/-- R186's example. -/
theorem test_refresh :
    nextIs (exec .refresh ramp) (fun t => t.csum == 0x4460 && t.byte 6 == 0x60 && t.byte 7 == 0x44) = true := by
  decide +kernel

/-- V-T1. -/
theorem test_encrypt :
    nextIs (exec .encrypt zeroRecord) (fun t =>
      t.csum == 0 && t.seed == 0x359F6918 && t.selWord == 0x00000202 && t.statusWord == 0x00000100 &&
        t.memRead 0x8 4 == 0x84EA0B71 && t.memRead 0xC0 4 == 0xFB051B28 && t.memRead 0x144 4 == 0x359FC9EA) = true := by
  decide +kernel

/-- V-T7 (b): BPI[2] = 0x28. -/
theorem test_encrypt_bad_group :
    nextIs (exec .encrypt { zeroRecord with mem := memStore zeroRecord.mem 0x282 [0x28] })
      (fun t => t.fault == 5 && t.finfo == 0x00280102) = true := by decide +kernel

/-- Bytes 8-11, 0x70 and 0xC0 of V-T1's ciphertext, with its EC and its row 2 = 0 2 1 3. -/
def cipherRecord : State :=
  { State.reset with
    len := 0x148
    mem := memCells 0 [0x78, 0x56, 0x34, 0x12] ++ memCells 0x8 [0x71, 0x0B, 0xEA, 0x84] ++ memCells 0x70 [0xB3] ++
      memCells 0xC0 [0x28] ++ memCells 0x208 [0, 2, 1, 3] }

/-- V-T1: DECRYPT of its ciphertext brings zeros back; BUF[0x70] and BUF[0xC0] change places with their blocks. -/
theorem test_decrypt :
    nextIs (exec .decrypt cipherRecord) (fun t =>
      t.seed == 0x359F6918 && t.selWord == 0x00000202 && t.statusWord == 0 && t.memRead 0x8 4 == 0) = true := by
  decide +kernel

/-- V-T7 (d): entry 0 of row 2 equal to 5. -/
theorem test_decrypt_bad_row :
    nextIs (exec .decrypt { record 1 1 with mem := memStore (record 1 1).mem 0x208 [5] })
      (fun t => t.fault == 5 && t.finfo == 0x00050008) = true := by decide +kernel

/-! ### Host transactions -/

/-- HB3. -/
theorem test_len_keeps_low_half :
    nextIs (runFor 2 (withScript State.reset [scriptWrite 0x310 0xFFFF1234, scriptRead 0x310]))
      (fun t => t.returned == [0x00001234]) = true := by decide

/-- HB5. -/
theorem test_buf_word :
    nextIs (runFor 2 (withScript State.reset [scriptWrite 0x000 0x12345678, scriptRead 0x000]))
      (fun t => t.returned == [0x12345678] && t.loadBytes 0 4 == [0x78, 0x56, 0x34, 0x12]) = true := by decide

/-- FT3, FT4: a dropped ADVANCE, then FCLR. -/
theorem test_drop_and_clear :
    nextIs (runFor 2 (withScript { State.reset with fault := 2, finfo := 7, seed := 5 } [scriptCommand .advance, clrFault]))
      (fun t => t.seed == 5 && t.fault == 0 && t.finfo == 0) = true := by decide

/-- FT7: an illegal word keeps SKIP. -/
theorem test_illegal_keeps_skip :
    nextIs (step (withScript { State.reset with skip := true } [scriptWrite 0x300 0x00000008]))
      (fun t => t.fault == 1 && t.finfo == 8 && t.skip) = true := by decide

/-- The first step after reset runs the command put in front of it: ENCRYPT with LEN = 0 (V-T7 (a)). -/
theorem test_withFetchWord :
    nextIs (step (State.reset.withFetchWord 32 6)) (fun t => t.fault == 2 && t.finfo == 0) = true := by decide

/-- A reset byte is the free value, and a written one is not. -/
theorem test_reset_storage : State.reset.byte 5 = Config.initByte 0 5 := rfl

/-! ### Witnesses: for each statement with hypotheses, a state and operands that meet all of them together -/

theorem witness_DecodeEncodeRoundTrip :
    (Instr.crypt 0x1FF 0x1FF).wellFormed = true ∧ (Instr.crypt 0 0).wellFormed = true ∧
      (Instr.shuffle 31).wellFormed = true ∧ Instr.nop.wellFormed = true := by decide

theorem witness_EncodeDecodeRoundTrip : decode 0x03FFFF02 = .command (.crypt 0x1FF 0x1FF) := by decide

/-- The reset state with one CMD write to come. -/
def commandState (w : Word) : State := withScript State.reset [.write (slotAt 0x300) w]

/-- A word of illegal kind, as IllegalWordsFault lists them. -/
abbrev illegalKind (w : Word) : Prop :=
  8 ≤ w.toNat % 16 ∨
    (w.toNat % 16 = 2 ∧ w &&& 0xFC0000F0 ≠ 0) ∨
    (w.toNat % 16 = 3 ∧ w &&& 0xFFFFE0F0 ≠ 0) ∨
    (w.toNat % 16 ∈ [0, 1, 4, 5, 6, 7] ∧ w &&& 0xFFFFFFF0 ≠ 0)

/-- One word for each clause. -/
theorem witness_IllegalWordsFault :
    (commandState 8).script = .write (slotAt 0x300) 8 :: [] ∧ (commandState 8).fault = 0 ∧ illegalKind 0x00000008 ∧
      illegalKind 0x04000002 ∧ illegalKind 0x00002003 ∧ illegalKind 0x00000101 ∧ illegalKind 0x80000000 := by decide

theorem witness_StepRunsDecodedCommand :
    (commandState 1).script = .write (slotAt 0x300) 1 :: [] ∧ (commandState 1).fault = 0 ∧
      decode 1 = .command .advance := by decide

theorem witness_CommandDroppedWhileFaulted :
    ({ commandState 1 with fault := 2 } : State).fault ≠ 0 ∧
      ({ commandState 1 with fault := 2 } : State).script = .write (slotAt 0x300) 1 :: [] ∧
      slotAt 0x308 ≠ slotAt 0x300 ∧
      (withScript { State.reset with fault := 2 } [.write (slotAt 0x308) 1]).script = .write (slotAt 0x308) 1 :: [] ∧
      (withScript { State.reset with fault := 2 } [.read (slotAt 0x304)]).script = .read (slotAt 0x304) :: [] := by
  decide

/-- A CMD write in a state with a fault, of an illegal word, of a skipped ENCRYPT, and of a command that executes. -/
theorem witness_CommandOutcomes :
    (nextIs (step { commandState 1 with fault := 2 }) (fun t => t.outcome == some .dropped)) = true ∧
      (nextIs (step (commandState 8)) (fun t => t.outcome == some .faulted)) = true ∧
      (nextIs (step (withScript (record 1 1) [.write (slotAt 0x300) 6])) (fun t => t.outcome == some .skipped)) = true ∧
      (nextIs (step (commandState 1)) (fun t => t.outcome == some .executed)) = true := by decide

theorem witness_IdleKeepsState : State.reset.script = [] := rfl

theorem witness_NoFaultAtTheEndMeansNoFault :
    (∀ x ∈ (withScript State.reset [.write (slotAt 0x300) 1, .write (slotAt 0x300) 8]).script, clearsFault x = false) ∧
      State.reset.fault = 0 ∧
      ∃ t, runFor 2 (withScript State.reset [.write (slotAt 0x300) 1, .write (slotAt 0x300) 8]) = .next t ∧
        (t.fault == 1) = true :=
  ⟨by decide, rfl, exists_of_nextIs (by decide)⟩

/-- The first and the last word of BUF, BP and BPI. -/
theorem witness_HostReadsStorageWords :
    ∀ a ∈ [0x000, 0x154, 0x200, 0x27C, 0x280, 0x29C], isStorage a = true ∧ a % 4 = 0 ∧
      (withScript State.reset [.read (slotAt a)]).script = .read (slotAt a) :: [] := by decide

theorem witness_HostWritesStorageWords :
    ∀ a ∈ [0x000, 0x154, 0x200, 0x27C, 0x280, 0x29C], isStorage a = true ∧ a % 4 = 0 ∧
      (withScript State.reset [.write (slotAt a) 1]).script = .write (slotAt a) 1 :: [] := by decide

theorem witness_HostReadsRegisters :
    ∀ a ∈ [0x300, 0x304, 0x308, 0x30C, 0x310, 0x314, 0x318, 0x31C, 0x320],
      (withScript State.reset [.read (slotAt a)]).script = .read (slotAt a) :: [] := by decide

/-- Both ends of each reserved range. -/
theorem witness_ReservedOffsetsDoNothing :
    ∀ a ∈ [0x158, 0x1FC, 0x2A0, 0x2FC, 0x324, 0x3FC], a % 4 = 0 ∧
      ((0x158 ≤ a ∧ a < 0x200) ∨ (0x2A0 ≤ a ∧ a < 0x300) ∨ (0x324 ≤ a ∧ a < 0x400)) ∧
      (withScript State.reset [.read (slotAt a)]).script = .read (slotAt a) :: [] ∧
      (withScript State.reset [.write (slotAt a) 1]).script = .write (slotAt a) 1 :: [] := by decide

theorem witness_HostWritesRegisters :
    ∀ a ∈ [0x304, 0x30C, 0x310, 0x314, 0x318, 0x31C, 0x320],
      (withScript State.reset [.write (slotAt a) 1]).script = .write (slotAt a) 1 :: [] := by decide

theorem witness_CtrlWriteClearsFault :
    (withScript State.reset [.write (slotAt 0x308) 1]).script = .write (slotAt 0x308) 1 :: [] ∧
      (withScript State.reset [.write (slotAt 0x308) 2]).script = .write (slotAt 0x308) 2 :: [] ∧
      (withScript State.reset [.read (slotAt 0x308)]).script = .read (slotAt 0x308) :: [] := by decide

theorem witness_HostReadsRepeat :
    (withScript State.reset [.read (slotAt 0x304), .read (slotAt 0x304)]).script =
      .read (slotAt 0x304) :: .read (slotAt 0x304) :: [] := rfl

theorem witness_ResetInput : (withScript State.reset [.reset]).script = .reset :: [] := rfl

theorem witness_StepKeepsInvariant : Invariant State.reset ∧ ∃ t, step State.reset = .next t :=
  ⟨⟨by decide, .inl ⟨rfl, rfl⟩, by decide⟩, _, rfl⟩

theorem witness_FaultIsSticky :
    (({ State.reset with fault := 2 } : State).fault ≠ 0 ∧
      ∃ t, step (withScript { State.reset with fault := 2 } [.write (slotAt 0x308) 1]) = .next t ∧
        (t.fault == 0) = true) ∧
    (State.reset.fault = 0 ∧ ∃ t, step (commandState 8) = .next t ∧ (t.fault == 1) = true) :=
  ⟨⟨by decide, exists_of_nextIs (by decide)⟩, by decide, exists_of_nextIs (by decide)⟩

theorem witness_FaultWritesNothingElse :
    ∃ t, exec .encrypt State.reset = .next t ∧ (t.outcome == some .faulted) = true := exists_of_nextIs (by decide)

/-- SEED, KS, CSUM and SEL each changed by a command. -/
theorem witness_OnlyNamedWritersChangeRegisters :
    (∃ t, exec .advance { State.reset with seed := 1 } = .next t ∧ (t.seed != 1 && t.ks != 0) = true) ∧
    (∃ t, exec .refresh ramp = .next t ∧ (t.csum != 0) = true) ∧
    (∃ t, exec .decrypt (record 1 1) = .next t ∧ ((t.selSv, t.selGroup) != (0, 0)) = true) :=
  ⟨exists_of_nextIs (by decide), exists_of_nextIs (by decide +kernel), exists_of_nextIs (by decide)⟩

/-- SH3's start on the first byte of each block. -/
def blocksState : State :=
  { State.reset with
    len := 0x148
    mem := memCells 0x8 [0x11] ++ memCells 0x58 [0x22] ++ memCells 0xA8 [0x33] ++ memCells 0xF8 [0x44] ++
      memCells 0x224 [3, 0, 1, 2] }

/-- CR1's start. -/
def cryptState : State := { State.reset with len := 0x148, mem := memCells 8 [0, 0, 0, 0] }

/-- CS7's record with a checksum field of 0. -/
def rampZeroField : State := { ramp with mem := memCells 6 [0, 0] ++ ramp.mem }

/-- A byte changed by each command that writes storage: 0x8 by SHUFFLE and DECRYPT, 0xA by CRYPT, the field at 6 by REFRESH, and
0x147, the last byte of the record, by ENCRYPT. -/
theorem witness_CommandFootprints :
    (∃ t, exec (.crypt 0x8 0xC) cryptState = .next t ∧ (t.byte 0xA != cryptState.byte 0xA) = true) ∧
    (∃ t, exec (.shuffle 9) blocksState = .next t ∧ (t.byte 0x8 != blocksState.byte 0x8) = true) ∧
    (∃ t, exec .refresh rampZeroField = .next t ∧ (t.byte 6 != rampZeroField.byte 6) = true) ∧
    (∃ t, exec .encrypt zeroRecord = .next t ∧ (t.byte 0x147 != zeroRecord.byte 0x147) = true) ∧
    (∃ t, exec .decrypt cipherRecord = .next t ∧ (t.byte 0x8 != cipherRecord.byte 0x8) = true) :=
  ⟨exists_of_nextIs (by decide +kernel), exists_of_nextIs (by decide +kernel), exists_of_nextIs (by decide +kernel),
    exists_of_nextIs (by decide +kernel), exists_of_nextIs (by decide +kernel)⟩

/-- All of storage written with zeros. -/
def writtenState : State :=
  { State.reset with mem := memCells 0 (List.replicate 0x158 0) ++ memCells 0x200 (List.replicate 0xA0 0) }

theorem witness_FreeContentsDoNotMatterOnceWritten : Instr.encrypt.wellFormed = true ∧ StorageWritten writtenState := by
  refine ⟨rfl, fun a ha => ?_⟩
  have range : a < 0x158 ∨ (0x200 ≤ a ∧ a < 0x2A0) := by simpa [isStorage] using ha
  simp only [State.written, writtenState, Laws.memLookup_append, Laws.memLookup_memCells, ha, and_true,
    List.getElem?_replicate]
  rcases range with h | ⟨h₁, h₂⟩
  · simp [h]
  · simp [h₁, show a - 0x200 < 0xA0 by omega, show ¬ a < 0x158 by omega]

theorem witness_IllegalLengthFaults :
    Instr.checksum ≠ .nop ∧ Instr.checksum ≠ .advance ∧ State.reset.len ≠ 0x148 ∧ State.reset.len ≠ 0x158 := by decide

/-- Regions at their boundaries: empty, of odd start, and the whole record. Also the hypotheses of CryptTwiceRestores. -/
theorem witness_CryptResult :
    (record 0 0).len = 0x148 ∧
      ((0x14 : Half).toNat ≤ (0x14 : Half).toNat ∧ (0x14 : Half).toNat ≤ (record 0 0).len.toNat ∧
        ((0x14 : Half).toNat - (0x14 : Half).toNat) % 2 = 0) ∧
      ((0x9 : Half).toNat ≤ (0xB : Half).toNat ∧ (0xB : Half).toNat ≤ (record 0 0).len.toNat ∧
        ((0xB : Half).toNat - (0x9 : Half).toNat) % 2 = 0) ∧
      ((0x0 : Half).toNat ≤ (0x148 : Half).toNat ∧ (0x148 : Half).toNat ≤ (record 0 0).len.toNat ∧
        ((0x148 : Half).toNat - (0x0 : Half).toNat) % 2 = 0) := by decide

/-- CR8, CR5 and CR7. -/
theorem witness_CryptRegionFaults :
    (record 0 0).len = 0x148 ∧
      (0x8 : Half).toNat < (0xA : Half).toNat ∧ (record 0 0).len.toNat < (0x158 : Half).toNat ∧
      ((0x7 : Half).toNat ≤ (0xA : Half).toNat ∧ (0xA : Half).toNat ≤ (record 0 0).len.toNat ∧
        ((0xA : Half).toNat - (0x7 : Half).toNat) % 2 = 1) := by decide

theorem witness_CryptTwiceRestores :
    (record 0 0).len = 0x148 ∧ (0x8 : Half).toNat ≤ (0x148 : Half).toNat ∧
      (0x148 : Half).toNat ≤ (record 0 0).len.toNat ∧ ((0x148 : Half).toNat - (0x8 : Half).toNat) % 2 = 0 := by decide

theorem witness_CryptContinues :
    (record 0 0).len = 0x148 ∧ (0x8 : Half).toNat ≤ (0xC : Half).toNat ∧ (0xC : Half).toNat ≤ (0x148 : Half).toNat ∧
      (0x148 : Half).toNat ≤ (record 0 0).len.toNat ∧ ((0xC : Half).toNat - (0x8 : Half).toNat) % 2 = 0 ∧
      ((0x148 : Half).toNat - (0xC : Half).toNat) % 2 = 0 := by decide

/-- The rows of `record`: in range, permutations, and inverse to each other. -/
theorem record_rows :
    RowIsPermutation (record 0 0) 9 ∧ RowInRange (record 0 0) 2 ∧ RowsCancel (record 0 0) 9 2 ∧
      RowInRange (record 1 1) 2 := by
  unfold RowIsPermutation RowInRange RowsCancel
  decide +kernel

theorem witness_ShuffleResult : (record 0 0).len = 0x148 ∧ RowInRange (record 0 0) (9 : Byte).toNat :=
  ⟨rfl, record_rows.1.1⟩

theorem witness_ShuffleInverseRestores : (record 0 0).len = 0x148 ∧ RowInRange (record 0 0) (9 : Byte).toNat ∧
    RowInRange (record 0 0) (2 : Byte).toNat ∧ RowsCancel (record 0 0) (9 : Byte).toNat (2 : Byte).toNat :=
  ⟨rfl, record_rows.1.1, record_rows.2.1, record_rows.2.2.1⟩

theorem witness_ShuffleKeepsChecksum : (record 0 0).len = 0x148 ∧ RowIsPermutation (record 0 0) (9 : Byte).toNat :=
  ⟨rfl, record_rows.1⟩

/-- `record` with the row 5 given. -/
def withRow5 (row : List Byte) : State := { record 0 0 with mem := memCells 0x214 row }

/-- A row whose first entry, and one whose last entry, is the first above 3. -/
theorem witness_ShuffleBadRowFaults :
    (withRow5 []).len = 0x148 ∧ (5 : Byte).toNat < 32 ∧
      (3 < sourceBlock (withRow5 [4, 0, 0, 0]) (5 : Byte).toNat 0 ∧
        ∀ j < 0, sourceBlock (withRow5 [4, 0, 0, 0]) (5 : Byte).toNat j ≤ 3) ∧
      (3 < sourceBlock (withRow5 [0, 3, 1, 7]) (5 : Byte).toNat 3 ∧
        ∀ j < 3, sourceBlock (withRow5 [0, 3, 1, 7]) (5 : Byte).toNat j ≤ 3) := by decide

/-- Both premises of ChecksumResult and RefreshResult. -/
theorem witness_ChecksumResult :
    ramp.len = 0x148 ∧ ({ ramp with len := 0x158 } : State).len = 0x158 ∧ State.reset.len ≠ 0x148 ∧
      State.reset.len ≠ 0x158 := by decide

theorem witness_RefreshResult :
    ramp.len = 0x148 ∧ ({ ramp with len := 0x158 } : State).len = 0x158 ∧ State.reset.len ≠ 0x148 ∧
      State.reset.len ≠ 0x158 := by decide

/-- Both heuristic bytes nonzero, and each of them zero. -/
theorem witness_HeuristicSkips :
    (record 1 1).len = 0x148 ∧ ((record 1 1).byte 0x70 ≠ 0 ∧ (record 1 1).byte 0xC0 ≠ 0) ∧
      ((record 0 1).byte 0x70 = 0 ∧ (record 1 0).byte 0xC0 = 0) := by decide

/-- `zeroRecord` with LEN = 0x158: the extra block is part of the record, and unwritten. -/
def zeroRecordLong : State := { zeroRecord with len := 0x158 }

/-- The tables and selector of `zeroRecord`: group 2, a permutation that undoes itself. -/
theorem zeroRecord_tables :
    zeroRecord.byte 0x70 = 0 ∧ groupValue zeroRecord = 2 ∧ svValue zeroRecord = 2 ∧ RowIsPermutation zeroRecord 2 ∧
      RowsCancel zeroRecord 2 2 := by
  unfold RowIsPermutation RowInRange RowsCancel
  decide +kernel

theorem zeroRecordLong_tables :
    zeroRecordLong.byte 0x70 = 0 ∧ groupValue zeroRecordLong = 2 ∧ RowInRange zeroRecordLong 2 := by
  unfold RowInRange
  decide +kernel

/-- Both lengths; the second meets the extra block's premise. -/
theorem witness_EncryptResult :
    (zeroRecord.len = 0x148 ∧ zeroRecord.byte 0x70 = 0 ∧ groupValue zeroRecord ≤ 31 ∧
      RowInRange zeroRecord (groupValue zeroRecord)) ∧
    (zeroRecordLong.len = 0x158 ∧ zeroRecordLong.byte 0x70 = 0 ∧ groupValue zeroRecordLong ≤ 31 ∧
      RowInRange zeroRecordLong (groupValue zeroRecordLong)) := by
  obtain ⟨h70, hg, -, hrow, -⟩ := zeroRecord_tables
  obtain ⟨h70', hg', hrow'⟩ := zeroRecordLong_tables
  rw [hg, hg']
  exact ⟨⟨rfl, h70, by decide, hrow.1⟩, rfl, h70', by decide, hrow'⟩

/-- BPI[2] = 0x20, and a row whose first entry is 4. -/
theorem witness_EncryptBadTablesFault :
    (record 0 0).len = 0x148 ∧ (record 0 0).byte 0x70 = 0 ∧
      31 < groupValue { record 0 0 with mem := memStore (record 0 0).mem 0x282 [0x20] } ∧
      (groupValue { record 0 0 with mem := memStore (record 0 0).mem 0x224 [4] } ≤ 31 ∧
        3 < sourceBlock { record 0 0 with mem := memStore (record 0 0).mem 0x224 [4] } 9 0) := by decide

/-- `record` of nonzero heuristic bytes with LEN = 0x158: the extra block is part of the record, and unwritten. -/
def recordLong : State := { record 1 1 with len := 0x158 }

theorem recordLong_row : RowInRange recordLong 2 := by
  unfold RowInRange
  decide +kernel

/-- Both lengths; the second meets the extra block's premise. -/
theorem witness_DecryptResult :
    ((record 1 1).len = 0x148 ∧ (record 1 1).byte 0x70 ≠ 0 ∧ (record 1 1).byte 0xC0 ≠ 0 ∧
      RowInRange (record 1 1) (svValue (record 1 1))) ∧
    (recordLong.len = 0x158 ∧ recordLong.byte 0x70 ≠ 0 ∧ recordLong.byte 0xC0 ≠ 0 ∧
      RowInRange recordLong (svValue recordLong)) := by
  rw [show svValue (record 1 1) = 2 by decide, show svValue recordLong = 2 by decide]
  exact ⟨⟨rfl, by decide, by decide, record_rows.2.2.2⟩, rfl, by decide, by decide, recordLong_row⟩

theorem witness_DecryptBadRowFaults :
    (record 1 1).len = 0x148 ∧ (record 1 1).byte 0x70 ≠ 0 ∧ (record 1 1).byte 0xC0 ≠ 0 ∧
      svValue { record 1 1 with mem := memStore (record 1 1).mem 0x208 [0xFF] } = 2 ∧
      3 < sourceBlock { record 1 1 with mem := memStore (record 1 1).mem 0x208 [0xFF] } 2 0 := by decide

/-- A DECRYPT that executes, and one that does not. -/
theorem witness_TransformIgnoresOldSeed :
    (∃ t, exec .decrypt (record 1 1) = .next t ∧ (t.outcome == some .executed) = true) ∧
      (∃ t, exec .decrypt (record 0 0) = .next t ∧ (t.outcome == some .skipped) = true) :=
  ⟨exists_of_nextIs (by decide), exists_of_nextIs (by decide)⟩

theorem witness_EncryptChecksumIsOfPlaintext :
    RowIsPermutation zeroRecord (groupValue zeroRecord) ∧
      ∃ t, exec .encrypt zeroRecord = .next t ∧ (t.outcome == some .executed) = true := by
  obtain ⟨-, hg, -, hrow, -⟩ := zeroRecord_tables
  rw [hg]
  exact ⟨hrow, exists_of_nextIs (by decide +kernel)⟩

/-- V-T5: an ENCRYPT that leaves the heuristic true; V-T1: a DECRYPT that leaves it false. -/
theorem witness_SecondTransformIsSkipped :
    (∃ t, exec .encrypt zeroRecord = .next t ∧
      (t.outcome == some .executed && t.byte 0x70 != 0 && t.byte 0xC0 != 0) = true) ∧
    (∃ t, exec .decrypt cipherRecord = .next t ∧ (t.outcome == some .executed && t.byte 0x70 == 0) = true) :=
  ⟨exists_of_nextIs (by decide +kernel), exists_of_nextIs (by decide +kernel)⟩

/-- `zeroRecord` with the two CMD writes to come. -/
def roundTripState : State := withScript zeroRecord [.write (slotAt 0x300) 6, .write (slotAt 0x300) 7]

theorem witness_EncryptDecryptRoundTrip :
    roundTripState.script = .write (slotAt 0x300) 0x00000006 :: .write (slotAt 0x300) 0x00000007 :: [] ∧
      roundTripState.fault = 0 ∧ roundTripState.len = 0x148 ∧ roundTripState.byte 0x70 = 0 ∧
      groupValue roundTripState = 2 ∧ svValue roundTripState = 2 ∧ RowInRange roundTripState 2 ∧
      RowsCancel roundTripState 2 2 ∧
      ∃ t, step roundTripState = .next t ∧ (t.byte 0x70 != 0 && t.byte 0xC0 != 0) = true := by
  refine ⟨rfl, rfl, rfl, by decide +kernel, by decide +kernel, by decide +kernel, ?_, ?_, exists_of_nextIs (by decide +kernel)⟩
  · unfold RowInRange; decide +kernel
  · unfold RowsCancel; decide +kernel

/-- `record` with the lines of ENCSTEPS 9 to come. -/
def primitivesState : State := withScript (record 0 0) (encSteps 9 0x12345678 0x148)

theorem witness_EncryptFromPrimitives :
    primitivesState.fault = 0 ∧ primitivesState.len = 0x148 ∧ primitivesState.byte 0x70 = 0 ∧
      groupValue primitivesState = 9 ∧ RowInRange primitivesState 9 ∧
      primitivesState.script =
        encSteps (BitVec.ofNat 8 (groupValue primitivesState)) (BitVec.ofNat 32 (ecValue primitivesState))
          primitivesState.len ++ [] := by
  refine ⟨rfl, rfl, by decide, by decide, ?_, by decide⟩
  unfold RowInRange
  decide +kernel

end Sys2Proof.Tests
end

section
/-!
PROOFS. The number that `MemRead` returns (00_scope.md R13, 20_memory.md R50), and from it EC and the selector (R15).
-/
namespace Sys2Proof.Proofs
open Sys2Proof Sys2Proof.Machine

/-- Bounds the tail of a little-endian number, so that shifting it by one byte does not overflow a word. -/
theorem ofDigits_bytes_lt (bs : List Byte) : Nat.ofDigits 0x100 (bs.map BitVec.toNat) < 0x100 ^ bs.length := by
  have hlt := Nat.ofDigits_lt_base_pow_length (b := 0x100) (l := bs.map BitVec.toNat) (by decide) (by
    intro d hd
    obtain ⟨b, -, rfl⟩ := List.mem_map.mp hd
    exact b.isLt)
  simpa only [List.length_map] using hlt

/-- Up to four bytes, `littleEndian` loses nothing: it is the number with these bytes as digits. -/
theorem littleEndian_toNat (bs : List Byte) (h : bs.length ≤ 4) :
    (littleEndian bs).toNat = Nat.ofDigits 0x100 (bs.map BitVec.toNat) := by
  induction bs with
  | nil => rfl
  | cons b bs ih =>
    have hlen : bs.length ≤ 3 := Nat.le_of_succ_le_succ h
    have htail : Nat.ofDigits 0x100 (bs.map BitVec.toNat) < 0x1000000 :=
      (ofDigits_bytes_lt bs).trans_le (Nat.pow_le_pow_right (by decide) hlen)
    have hb := b.isLt
    rw [← ih (by omega)] at htail
    simp only [littleEndian, List.map_cons, Nat.ofDigits_cons, BitVec.toNat_add, BitVec.toNat_setWidth,
      BitVec.toNat_shiftLeft, Nat.shiftLeft_eq, ← ih (by omega : bs.length ≤ 4)]
    omega

/-- `MemRead(a, n)` of up to four bytes is the number with the bytes of [a, a + n) as digits. -/
theorem memRead_toNat (s : State) (a n : Nat) (h : n ≤ 4) :
    (s.memRead a n).toNat = Nat.ofDigits 0x100 ((List.range' a n).map fun i => (s.byte i).toNat) := by
  rw [State.memRead, littleEndian_toNat _ (by simpa using h), State.loadBytes, List.map_map]
  rfl

theorem ec_toNat (s : State) : s.ec.toNat = ecValue s := by
  rw [State.ec, memRead_toNat s 0 4 (Nat.le_refl 4), ecValue]
  simp only [List.range'_succ, List.range'_zero, List.map_cons, List.map_nil, Nat.ofDigits_cons, Nat.ofDigits_nil,
    Nat.reduceAdd]
  omega

theorem selector_toNat (w : Word) : (selector w).toNat = w.toNat / 2 ^ 13 % 32 := by
  simp only [selector, BitVec.extractLsb'_toNat, Nat.shiftRight_eq_div_pow]

theorem selector_ec_toNat (s : State) : (selector s.ec).toNat = svValue s := by
  rw [selector_toNat, ec_toNat, svValue]

/-- Settles O45: the bytes of BUF[0, 4) are the digits of EC, and the selector is cut out of that number. -/
theorem selectorFromRecord : Obligations.SelectorFromRecord := fun s => ⟨ec_toNat s, selector_ec_toNat s⟩

end Sys2Proof.Proofs
end

section
/-!
PROOFS. How a command ends (40_command_cycle.md R102): once for all eight commands, the outcome and what its body writes;
from it the registers that a command may write (10_state.md R23 to R27), SKIP (R31) and FAULT (R29).
-/
namespace Sys2Proof.Proofs
open Sys2Proof Sys2Proof.Machine Sys2Proof.Laws

/-- What a command does when it executes, before `State.complete` ends it. -/
def commandBody (i : Instr) (s : State) : State :=
  match i with
  | .nop => s
  | .advance => { s with seed := lcg s.seed, ks := byteHi (lcg s.seed) ++ byteLo (lcg s.seed) }
  | .crypt start stop =>
    { (s.cryptRegion s.seed start.toNat stop.toNat).2 with
      seed := (s.cryptRegion s.seed start.toNat stop.toNat).1 }
  | .shuffle group => s.shuffleBody group.toNat
  | .checksum => { s with csum := s.checksum }
  | .refresh => { s.writeChecksum s.checksum with csum := s.checksum }
  | .encrypt => s.encryptBody
  | .decrypt => s.decryptBody

/-- The three endings of a command that passed the drop test (R102): a fault is raised, an ENCRYPT or DECRYPT is skipped
as its heuristic test says (R201), or the command's body is carried out. -/
inductive Ending (i : Instr) (s : State) : State → Prop where
  | faulted (f : FaultCode) (info : Word) : Ending i s (s.raise f info)
  | skipped (h : (i = .encrypt ∧ s.encFlag = true) ∨ (i = .decrypt ∧ s.encFlag = false)) : Ending i s s.skipCommand
  | executed : Ending i s (commandBody i s).complete

theorem exec_ending {i : Instr} {s t : State} (h : exec i s = .next t) : Ending i s t := by
  cases i with
  | nop => obtain rfl := execNop_cases h; exact .executed
  | advance => obtain rfl := execAdvance_cases h; exact .executed
  | crypt start stop =>
    obtain ⟨-, rfl⟩ | ⟨-, -, rfl⟩ | ⟨-, -, -, -, rfl⟩ | ⟨-, -, -, -, rfl⟩ := execCrypt_cases h
    · exact .faulted _ _
    · exact .faulted _ _
    · exact .faulted _ _
    · exact .executed
  | shuffle group =>
    obtain ⟨-, rfl⟩ | ⟨info, -, -, rfl⟩ | ⟨-, -, rfl⟩ := execShuffle_cases h
    · exact .faulted _ _
    · exact .faulted _ _
    · exact .executed
  | checksum =>
    obtain ⟨-, rfl⟩ | ⟨-, rfl⟩ := execChecksum_cases h
    · exact .faulted _ _
    · exact .executed
  | refresh =>
    obtain ⟨-, rfl⟩ | ⟨-, rfl⟩ := execRefresh_cases h
    · exact .faulted _ _
    · exact .executed
  | encrypt =>
    obtain ⟨-, rfl⟩ | ⟨-, henc, rfl⟩ | ⟨info, -, -, -, rfl⟩ | ⟨-, -, -, rfl⟩ := execEncrypt_cases h
    · exact .faulted _ _
    · exact .skipped (.inl ⟨rfl, henc⟩)
    · exact .faulted _ _
    · exact .executed
  | decrypt =>
    obtain ⟨-, rfl⟩ | ⟨-, henc, rfl⟩ | ⟨info, -, -, -, rfl⟩ | ⟨-, -, -, rfl⟩ := execDecrypt_cases h
    · exact .faulted _ _
    · exact .skipped (.inr ⟨rfl, henc⟩)
    · exact .faulted _ _
    · exact .executed

/-- Every command has a next state (R102). -/
theorem exec_answers_next (i : Instr) (s : State) : ∃ t, exec i s = .next t := by
  cases i with
  | nop => exact ⟨_, rfl⟩
  | advance => exact ⟨_, rfl⟩
  | crypt start stop => simp only [exec, execCrypt]; split_ifs <;> exact ⟨_, rfl⟩
  | shuffle group => simp only [exec, execShuffle]; split_ifs <;> [skip; split] <;> exact ⟨_, rfl⟩
  | checksum => simp only [exec, execChecksum]; split_ifs <;> exact ⟨_, rfl⟩
  | refresh => simp only [exec, execRefresh]; split_ifs <;> exact ⟨_, rfl⟩
  | encrypt => simp only [exec, execEncrypt]; split_ifs <;> [skip; skip; split] <;> exact ⟨_, rfl⟩
  | decrypt => simp only [exec, execDecrypt]; split_ifs <;> [skip; skip; split] <;> exact ⟨_, rfl⟩

/-! What the bodies write: a frame that all of them keep, and the writers of each register (R23 to R26). -/

section commandBody
variable (i : Instr) (s : State)

@[simp] theorem commandBody_len : (commandBody i s).len = s.len := by cases i <;> simp [commandBody]
@[simp] theorem commandBody_fault : (commandBody i s).fault = s.fault := by cases i <;> simp [commandBody]
@[simp] theorem commandBody_finfo : (commandBody i s).finfo = s.finfo := by cases i <;> simp [commandBody]
@[simp] theorem commandBody_resets : (commandBody i s).resets = s.resets := by cases i <;> simp [commandBody]
@[simp] theorem commandBody_script : (commandBody i s).script = s.script := by cases i <;> simp [commandBody]
@[simp] theorem commandBody_returned : (commandBody i s).returned = s.returned := by cases i <;> simp [commandBody]

theorem commandBody_seed_writers (h : (commandBody i s).seed ≠ s.seed) :
    i = .advance ∨ (∃ a b, i = .crypt a b) ∨ i = .encrypt ∨ i = .decrypt := by
  cases i <;> simp [commandBody] at h ⊢

theorem commandBody_ks_writers (h : (commandBody i s).ks ≠ s.ks) : i = .advance := by
  cases i <;> simp [commandBody] at h ⊢

theorem commandBody_csum_writers (h : (commandBody i s).csum ≠ s.csum) :
    i = .checksum ∨ i = .refresh ∨ i = .encrypt := by
  cases i <;> simp [commandBody] at h ⊢

theorem commandBody_sel_writers (h : ((commandBody i s).selSv, (commandBody i s).selGroup) ≠ (s.selSv, s.selGroup)) :
    i = .encrypt ∨ i = .decrypt := by
  cases i <;> simp [commandBody] at h ⊢

end commandBody

/-- Settles O27: a command that faults or is skipped writes none of these registers, and the body of an executed one
writes those that the rules name. -/
theorem onlyNamedWritersChangeRegisters : Obligations.OnlyNamedWritersChangeRegisters := by
  intro i s t h
  cases exec_ending h with
  | faulted f info => simp
  | skipped hskip => simp
  | executed =>
    exact ⟨commandBody_seed_writers i s, commandBody_ks_writers i s, commandBody_csum_writers i s,
      commandBody_sel_writers i s, by simp⟩

theorem encFlag_eq_false_iff (s : State) : s.encFlag = false ↔ s.byte 0x70 = 0 ∨ s.byte 0xC0 = 0 := by
  rw [← Bool.not_eq_true, encFlag_eq_true_iff, not_and_or, not_not, not_not]

/-- Settles O29: each of the three endings sets SKIP as the rule says. -/
theorem skipFollowsOutcome : Obligations.SkipFollowsOutcome := by
  intro i s
  obtain ⟨t, h⟩ := exec_answers_next i s
  refine ⟨t, h, ?_⟩
  cases exec_ending h with
  | faulted f info => exact .inr (.inr ⟨rfl, rfl⟩)
  | skipped hskip =>
    rw [encFlag_eq_true_iff, encFlag_eq_false_iff] at hskip
    exact .inr (.inl ⟨rfl, rfl, hskip⟩)
  | executed => exact .inl ⟨rfl, rfl⟩

/-- The codes that are ever written to STATUS.FAULT (R29, R230). -/
theorem code_bounds (f : FaultCode) : 1 ≤ f.code.toNat ∧ f.code.toNat ≤ 5 := by cases f <;> decide

/-- A command either leaves FAULT as it is or raises a fault. -/
theorem exec_fault {i : Instr} {s t : State} (h : exec i s = .next t) :
    t.fault = s.fault ∨ ∃ f : FaultCode, t.fault = f.code := by
  cases exec_ending h with
  | faulted f info => exact .inr ⟨f, rfl⟩
  | skipped hskip => exact .inl rfl
  | executed => exact .inl (by simp)

/-- A host write either is one that clears the fault (R34), and does no more, or leaves the fault as it is. -/
theorem hostWrite_fault (s : State) (slot : BitVec 8) (d : Word) :
    (clearsFault (.write slot d) = true ∧ s.hostWrite (targetOf slot) d = s.clearFault) ∨
    (clearsFault (.write slot d) = false ∧ (s.hostWrite (targetOf slot) d).fault = s.fault ∧
      (s.hostWrite (targetOf slot) d).finfo = s.finfo) := by
  have hclears : clearsFault (.write slot d) = (decide (targetOf slot = .ctrl) && d.getLsbD 0) := by
    simp only [clearsFault, targetOf_eq_ctrl_iff]
  rw [hclears]
  cases targetOf slot with
  | ctrl => rw [State.hostWrite]; cases d.getLsbD 0 <;> simp
  | _ => simp [State.hostWrite]

theorem clearsFault_cmd (w : Word) : clearsFault (.write (slotAt 0x300) w) = false := by
  simp [clearsFault, show slotOffset (slotAt 0x300) = 0x300 by decide]

/-- Settles O25: of the transactions that meet FAULT nonzero only a clearing CTRL write and reset touch it, and of those
that meet FAULT 0 only a CMD write does. -/
theorem faultIsSticky : Obligations.FaultIsSticky := by
  intro s t h
  obtain ⟨hs, rfl⟩ | ⟨x, rest, hs, hx⟩ := step_cases h
  · exact ⟨fun _ => .inr ⟨rfl, rfl, by simp [hs]⟩, .inl⟩
  obtain ⟨w, rfl, hf, rfl⟩ | ⟨w, why, rfl, hf, -, rfl⟩ | ⟨w, i, rfl, hf, -, hexec⟩ | ⟨slot, d, rfl, -, rfl⟩ |
    ⟨slot, rfl, rfl⟩ | ⟨rfl, rfl⟩ := hx
  · exact ⟨fun _ => .inr ⟨rfl, rfl, by simp [hs, clearsFault_cmd]⟩, fun h0 => absurd h0 hf⟩
  · exact ⟨absurd hf, fun _ => .inr ⟨by simp, by simp, w, rest, hs⟩⟩
  · refine ⟨absurd hf, fun _ => ?_⟩
    obtain hkeep | ⟨f, hcode⟩ := exec_fault hexec
    · exact .inl (hkeep.trans hf)
    · rw [hcode]
      exact .inr ⟨(code_bounds f).1, (code_bounds f).2, w, rest, hs⟩
  · obtain ⟨hc, ht⟩ | ⟨hc, hfault, hfinfo⟩ := hostWrite_fault { s with script := rest } slot d
    · rw [ht]
      exact ⟨fun _ => .inl ⟨_, rest, hs, hc, rfl, rfl⟩, fun _ => .inl rfl⟩
    · exact ⟨fun _ => .inr ⟨hfault, hfinfo, by simp [hs, hc]⟩, fun h0 => .inl (hfault.trans h0)⟩
  · exact ⟨fun _ => .inr ⟨rfl, rfl, by simp [hs, clearsFault]⟩, .inl⟩
  · exact ⟨fun _ => .inl ⟨.reset, rest, hs, rfl, rfl, rfl⟩, fun _ => .inl rfl⟩

end Sys2Proof.Proofs
end

section
/-!
PROOFS. What the host reads and writes at the register slots (10_state.md R23 to R34), and the state after reset (R41).
-/
namespace Sys2Proof.Proofs
open Sys2Proof Sys2Proof.Machine Sys2Proof.Laws

/-- `x ++ y` is the number with `y` as its low digit: no bits of the two overlap. -/
theorem append_toNat {m n : Nat} (x : BitVec m) (y : BitVec n) : (x ++ y).toNat = x.toNat * 2 ^ n + y.toNat := by
  rw [BitVec.toNat_append, ← Nat.shiftLeft_add_eq_or_of_lt y.isLt, Nat.shiftLeft_eq]

theorem statusWord_toNat (s : State) :
    s.statusWord.toNat = s.fault.toNat + (if s.encFlag then 0x100 else 0) + (if s.skip then 0x200 else 0) := by
  rw [State.statusWord, BitVec.toNat_setWidth_of_le (by decide), append_toNat, append_toNat, append_toNat]
  cases s.encFlag <;> cases s.skip <;> simp <;> omega

theorem statusWord_bit8 (s : State) : s.statusWord.getLsbD 8 = s.encFlag := by
  simp only [State.statusWord, BitVec.getLsbD_setWidth, BitVec.getLsbD_append]
  simp

theorem selWord_toNat (s : State) : s.selWord.toNat = s.selSv.toNat + 0x100 * s.selGroup.toNat := by
  rw [State.selWord, BitVec.toNat_setWidth_of_le (by decide), append_toNat, append_toNat]
  simp only [BitVec.ofNat_eq_ofNat, BitVec.toNat_ofNat]
  omega

/-- A 16-bit register reads as its value: bits 31:16 of the word are 0 (R24, R25, R27). -/
theorem halfWord_toNat (v : Half) : (v.setWidth 32).toNat = v.toNat := BitVec.toNat_setWidth_of_le (by decide)

/-- A host read appends the word it returns to the host's record and changes nothing of the block (R58). -/
theorem step_read {s : State} {slot : BitVec 8} {rest : List Transaction} (h : s.script = .read slot :: rest) :
    step s = .next { s with script := rest, returned := s.returned ++ [s.hostRead (targetOf slot)] } := by
  rw [step_cons h]; rfl

/-- Settles O15: slot by slot, the word that `State.hostRead` puts together, as a number. -/
theorem hostReadsRegisters : Obligations.HostReadsRegisters := by
  intro s a rest ha hs
  refine ⟨s.hostRead (targetOf (slotAt a)), step_read hs, ?_⟩
  simp only [List.mem_cons, List.not_mem_nil, or_false] at ha
  obtain rfl | rfl | rfl | rfl | rfl | rfl | rfl | rfl | rfl := ha <;>
    simp [State.hostRead, statusWord_toNat, encFlag_eq_true_iff, halfWord_toNat, selWord_toNat, -BitVec.toNat_setWidth]

/-- Settles O16: bit 8 of STATUS is the live heuristic. -/
theorem statusEncIsLive : Obligations.StatusEncIsLive := by
  intro s
  rw [targetOf_status, State.hostRead, statusWord_bit8, encFlag_eq_true_iff]

/-- Settles O19: the CTRL slot's write is FCLR, bit 0 of the word, and its read is 0. -/
theorem ctrlWriteClearsFault : Obligations.CtrlWriteClearsFault := by
  refine fun s rest => ⟨fun d hs => ?_, fun hs => ?_⟩
  · rw [step_cons hs, transact_write (by simp), targetOf_ctrl]
    simp only [State.hostWrite, BitVec.getLsbD, Nat.testBit_zero, decide_eq_true_eq]
    split <;> rfl
  · rw [step_read hs, targetOf_ctrl, State.hostRead]

/-- Settles O21: the fields of `State.reset`, whose storage is unwritten. -/
theorem resetValues : Obligations.ResetValues :=
  ⟨rfl, rfl, rfl, rfl, rfl, rfl, rfl, rfl, rfl, fun _ => rfl⟩

/-- Settles O23: no byte is written, no fault recorded, and GROUP is 0. -/
theorem resetMeetsInvariant : Obligations.ResetMeetsInvariant where
  storage := reset_mem_wf
  fault := .inl ⟨rfl, rfl⟩
  group := by decide

end Sys2Proof.Proofs
end

section
/-!
PROOFS. The host's transactions on storage, the reserved offsets and the stored registers (20_memory.md R51 to R58).
-/
namespace Sys2Proof.Proofs
open Sys2Proof Sys2Proof.Machine Sys2Proof.Laws

/-- A host write to anything but CMD ends in the state that `State.hostWrite` gives, whatever FAULT holds (R57, R60). -/
theorem step_write {s : State} {slot : BitVec 8} {d : Word} {rest : List Transaction}
    (h : s.script = .write slot d :: rest) (hslot : targetOf slot ≠ .cmd) :
    step s = .next (State.hostWrite { s with script := rest } (targetOf slot) d) := by
  rw [step_cons h, transact_write hslot]

/-- What a read returns rests on the block alone, not on the host's script or on the words read before (R58). -/
theorem hostRead_host_side (s : State) (script : List Transaction) (returned : List Word) (t : Target) :
    State.hostRead { s with script := script, returned := returned } t = s.hostRead t := by
  cases t <;> rfl

/-- Both ranges of storage begin and end on a word boundary (R55), so a word that begins in storage lies in it. -/
theorem isStorage_add {a j : Nat} (h : isStorage a = true) (h4 : a % 4 = 0) (hj : j < 4) : isStorage (a + j) = true := by
  rw [isStorage_iff] at h ⊢
  omega

theorem memRead_word_toNat (s : State) (a : Nat) :
    (s.memRead a 4).toNat = (s.byte a).toNat + 0x100 * (s.byte (a + 1)).toNat + 0x10000 * (s.byte (a + 2)).toNat +
      0x1000000 * (s.byte (a + 3)).toNat := by
  rw [memRead_toNat s a 4 (Nat.le_refl 4)]
  simp only [List.range'_succ, List.range'_zero, List.map_cons, List.map_nil, Nat.ofDigits_cons, Nat.ofDigits_nil,
    Nat.add_assoc, Nat.reduceAdd]
  omega

theorem wordBytes_getElem_toNat (n : Nat) (v : Word) (j : Nat) (hj : j < (wordBytes n v).length) :
    (wordBytes n v)[j].toNat = v.toNat / 2 ^ (8 * j) % 0x100 := by
  simp only [wordBytes, List.getElem_map, List.getElem_range, BitVec.extractLsb'_toNat, Nat.shiftRight_eq_div_pow]

/-- Settles O13: the slot of a storage word is read by `MemRead`, whose digits are the four bytes. -/
theorem hostReadsStorageWords : Obligations.HostReadsStorageWords := by
  intro s a rest ha h4 hs
  refine ⟨s.hostRead (targetOf (slotAt a)), step_read hs, ?_⟩
  rw [targetOf_storage ha h4, State.hostRead, memRead_word_toNat]

/-- Settles O14: the write is a store of the word's four bytes, all of them in storage. -/
theorem hostWritesStorageWords : Obligations.HostWritesStorageWords := by
  intro s a d rest ha h4 hs
  have hstep := step_write hs (by simp [targetOf_storage ha h4])
  rw [targetOf_storage ha h4, State.hostWrite] at hstep
  refine ⟨_, hstep, rfl, fun j hj => ?_, fun b hb => ?_⟩
  · rw [State.memWrite, byte_storeBytes_inside _ _ _ _ (by simpa using hj) (isStorage_add ha h4 hj),
      wordBytes_getElem_toNat]
  · rw [State.memWrite, byte_storeBytes_outside _ _ _ _ (by simpa using hb)]
    rfl

/-- The three reserved ranges of the window (R55). -/
theorem targetOf_reserved {a : Nat} (h4 : a % 4 = 0)
    (ha : (0x158 ≤ a ∧ a < 0x200) ∨ (0x2A0 ≤ a ∧ a < 0x300) ∨ (0x324 ≤ a ∧ a < 0x400)) :
    targetOf (slotAt a) = .reserved := by
  have hoff : slotOffset (slotAt a) = a := slotOffset_slotAt (by omega) h4
  have hs : ¬ isStorage a = true := by rw [isStorage_iff]; omega
  have hreg : ∀ r, 0x300 ≤ r → r < 0x324 → ¬ a = r := by omega
  simp [targetOf, hoff, hs, hreg]

/-- Settles O17: the slots of the reserved ranges are `Target.reserved`. -/
theorem reservedOffsetsDoNothing : Obligations.ReservedOffsetsDoNothing := by
  intro s a rest h4 ha
  have ht := targetOf_reserved h4 ha
  refine ⟨fun hs => ?_, fun d hs => ?_⟩
  · rw [step_read hs, ht, State.hostRead]
  · rw [step_write hs (by simp [ht]), ht, State.hostWrite]

/-- Settles O18: slot by slot, what `State.hostWrite` stores. -/
theorem hostWritesRegisters : Obligations.HostWritesRegisters := by
  intro s a d rest ha hs
  simp only [List.mem_cons, List.not_mem_nil, or_false] at ha
  obtain rfl | rfl | rfl | rfl | rfl | rfl | rfl := ha <;>
    rw [step_write hs (by simp)] <;> simp [State.hostWrite]

theorem runFor_zero (s : State) : runFor 0 s = .next s := rfl

/-- A run begins with a step. -/
theorem runFor_succ {k : Nat} {s t : State} (h : step s = .next t) : runFor (k + 1) s = runFor k t := by
  have hcore : Sys2Proof.core.step s = .next t := h
  have hrun : Sys2Proof.core.run (k + 1) s = Sys2Proof.core.run k t := by simp only [Host.Core.run, hcore]
  exact hrun

/-- Settles O20: the first read leaves the block as it was, so the second returns the same word. -/
theorem hostReadsRepeat : Obligations.HostReadsRepeat := by
  intro s slot rest hs
  refine ⟨s.hostRead (targetOf slot), ?_⟩
  rw [runFor_succ (step_read hs), runFor_succ (step_read rfl), hostRead_host_side s (.read slot :: rest),
    runFor_zero]
  simp

end Sys2Proof.Proofs
end

section
/-!
PROOFS. The footprints of the commands: the bytes that each may change (20_memory.md R62, 45_transform.md R212).
-/
namespace Sys2Proof.Proofs
open Sys2Proof Sys2Proof.Machine Sys2Proof.Laws

/-- The bytes that R62 lists for a command, as offsets. -/
def InFootprint (i : Instr) (s : State) (a : Nat) : Prop :=
  match i with
  | .crypt start stop => start.toNat ≤ a ∧ a < stop.toNat ∧ stop.toNat ≤ s.len.toNat
  | .shuffle _ => 0x8 ≤ a ∧ a < 0x148
  | .refresh => 0x6 ≤ a ∧ a < 0x8
  | .encrypt => 0x6 ≤ a ∧ a < s.cend
  | .decrypt => 0x8 ≤ a ∧ a < s.cend
  | .nop | .advance | .checksum => False

/-- With a legal LEN every footprint lies in BUF. -/
theorem InFootprint.lt_buf {i : Instr} {s : State} {a : Nat} (h : InFootprint i s a)
    (hlen : s.len = 0x148 ∨ s.len = 0x158) : a < 0x158 := by
  have hn : s.len.toNat ≤ 0x158 := by rcases hlen with hl | hl <;> simp [hl]
  have hc := cend_bounds s
  cases i <;> simp only [InFootprint] at h <;> omega

/-! The endings of a command store nothing. -/

@[simp] theorem raise_byte (s : State) (f : FaultCode) (info : Word) (a : Nat) : (s.raise f info).byte a = s.byte a :=
  byte_congr rfl rfl a

@[simp] theorem raiseInvalidLength_byte (s : State) (a : Nat) : s.raiseInvalidLength.byte a = s.byte a :=
  raise_byte s _ _ a

@[simp] theorem skipCommand_byte (s : State) (a : Nat) : s.skipCommand.byte a = s.byte a := byte_congr rfl rfl a

@[simp] theorem complete_byte (s : State) (a : Nat) : s.complete.byte a = s.byte a := byte_congr rfl rfl a

/-- The registers that commands write are no part of storage. -/
theorem byte_with_registers (s : State) (seed : Word) (ks csum : Half) (a : Nat) :
    State.byte { s with seed := seed, ks := ks, csum := csum } a = s.byte a := byte_congr rfl rfl a

/-- Every byte that a command changes, it changes with a legal LEN and within its footprint: the commands that fault, are
skipped or write registers only store nothing, and the operations of the others leave what lies outside. -/
theorem exec_changed_byte {i : Instr} {s t : State} {a : Nat} (h : exec i s = .next t) (ha : t.byte a ≠ s.byte a) :
    s.lenOk = true ∧ InFootprint i s a := by
  cases i with
  | nop =>
    obtain rfl := execNop_cases h
    simp at ha
  | advance =>
    obtain rfl := execAdvance_cases h
    simp [byte_with_registers] at ha
  | crypt start stop =>
    obtain ⟨-, rfl⟩ | ⟨-, -, rfl⟩ | ⟨-, -, -, -, rfl⟩ | ⟨hlen, hstart, hstop, -, rfl⟩ := execCrypt_cases h
    · simp at ha
    · simp at ha
    · simp at ha
    · simp only [complete_byte, byte_with_registers] at ha
      have hin : ¬ (a < start.toNat ∨ stop.toNat ≤ a) := fun hout =>
        ha (cryptRegion_byte_outside s s.seed hstart hout)
      exact ⟨hlen, by omega, by omega, hstop⟩
  | shuffle group =>
    obtain ⟨-, rfl⟩ | ⟨info, -, -, rfl⟩ | ⟨hlen, hrow, rfl⟩ := execShuffle_cases h
    · simp at ha
    · simp at ha
    · rw [complete_byte] at ha
      have hin : ¬ (a < 0x8 ∨ 0x148 ≤ a) := fun hout => ha (shuffleBody_byte_outside hrow hout)
      exact ⟨hlen, by omega, by omega⟩
  | checksum =>
    obtain ⟨-, rfl⟩ | ⟨-, rfl⟩ := execChecksum_cases h
    · simp at ha
    · simp [byte_with_registers] at ha
  | refresh =>
    obtain ⟨-, rfl⟩ | ⟨hlen, rfl⟩ := execRefresh_cases h
    · simp at ha
    · simp only [complete_byte, byte_with_registers] at ha
      have hin : ¬ (a < 0x6 ∨ 0x8 ≤ a) := fun hout => ha (writeChecksum_byte_outside s s.checksum hout)
      exact ⟨hlen, by omega, by omega⟩
  | encrypt =>
    obtain ⟨-, rfl⟩ | ⟨-, -, rfl⟩ | ⟨info, -, -, -, rfl⟩ | ⟨hlen, -, htables, rfl⟩ := execEncrypt_cases h
    · simp at ha
    · simp at ha
    · simp at ha
    · rw [complete_byte] at ha
      have hrow := (checkRow_eq_none_iff s _).2 ((checkEncryptTables_eq_none_iff s _).1 htables).2
      have hin : ¬ (a < 0x6 ∨ s.cend ≤ a) := fun hout => ha (encryptBody_byte_outside hrow hout)
      exact ⟨hlen, by omega, by omega⟩
  | decrypt =>
    obtain ⟨-, rfl⟩ | ⟨-, -, rfl⟩ | ⟨info, -, -, -, rfl⟩ | ⟨hlen, -, hrow, rfl⟩ := execDecrypt_cases h
    · simp at ha
    · simp at ha
    · simp at ha
    · rw [complete_byte] at ha
      have hin : ¬ (a < 0x8 ∨ s.cend ≤ a) := fun hout => ha (decryptBody_byte_outside hrow hout)
      exact ⟨hlen, by omega, by omega⟩

/-- No command changes a byte beyond BUF (R62). -/
theorem exec_byte_beyond_buf {i : Instr} {s t : State} {a : Nat} (h : exec i s = .next t) (ha : 0x158 ≤ a) :
    t.byte a = s.byte a := by
  by_contra hne
  obtain ⟨hlen, hin⟩ := exec_changed_byte h hne
  have hlt := hin.lt_buf ((lenOk_eq_true_iff s).1 hlen)
  omega

/-- Settles O28: a changed byte lies in the command's footprint and so in BUF, and the tables lie beyond BUF. -/
theorem commandFootprints : Obligations.CommandFootprints := by
  intro i s t h
  refine ⟨fun a ha => ?_, fun k _ => exec_byte_beyond_buf h (by omega), fun k _ => exec_byte_beyond_buf h (by omega)⟩
  obtain ⟨hlen, hin⟩ := exec_changed_byte h ha
  have hlegal := (lenOk_eq_true_iff s).1 hlen
  exact ⟨hlegal, hin.lt_buf hlegal, hin⟩

end Sys2Proof.Proofs
end

section
/-!
PROOFS. The decoder and the encoder of command words (30_encoding.md R80 to R90): a word is its five fields, the masks of
the opcode map test fields, and a word decodes to a command exactly when it is the encoding of a well-formed command.
-/
namespace Sys2Proof.Proofs
open Sys2Proof Sys2Proof.Machine Sys2Proof.Laws

/-! Words as their fields. -/

/-- The fields OP, Z1, A, B and Z2 make up the whole word (R81). -/
theorem word_eq_iff_fields (v w : Word) :
    v = w ↔ opField v = opField w ∧ v.extractLsb' 4 4 = w.extractLsb' 4 4 ∧ v.extractLsb' 8 9 = w.extractLsb' 8 9 ∧
      v.extractLsb' 17 9 = w.extractLsb' 17 9 ∧ v.extractLsb' 26 6 = w.extractLsb' 26 6 := by
  constructor
  · rintro rfl
    exact ⟨rfl, rfl, rfl, rfl, rfl⟩
  · simp only [opField, ← BitVec.toNat_inj, BitVec.extractLsb'_toNat, Nat.shiftRight_eq_div_pow]
    rintro ⟨hop, hz1, ha, hb, hz2⟩
    omega

theorem eq_enc_iff (w : Word) (op : BitVec 4) (a b : BitVec 9) :
    w = enc op a b ↔ opField w = op ∧ w.extractLsb' 4 4 = 0#4 ∧ w.extractLsb' 8 9 = a ∧ w.extractLsb' 17 9 = b ∧
      w.extractLsb' 26 6 = 0#6 := by
  rw [word_eq_iff_fields, enc_op, enc_z1, enc_a, enc_b, enc_z2]
  rfl

theorem and_ones_4 (x : BitVec 4) : x &&& 0xF#4 = x := BitVec.and_allOnes

theorem and_ones_6 (x : BitVec 6) : x &&& 0x3F#6 = x := BitVec.and_allOnes

theorem and_ones_9 (x : BitVec 9) : x &&& 0x1FF#9 = x := BitVec.and_allOnes

theorem and_ones_32 (w : Word) : w &&& 0xFFFFFFFF#32 = w := BitVec.and_allOnes

/-- The part of SHUFFLE's mask in A tests the bits above the group (R84). -/
theorem and_shuffle_mask_eq_zero_iff (a : BitVec 9) : a &&& 0x1E0#9 = 0#9 ↔ a.toNat < 32 := by
  revert a; decide +kernel

/-- CRYPT's mask tests the opcode and the two reserved fields (R84). -/
theorem matches_crypt_iff (w : Word) :
    w &&& 0xFC0000FF#32 = 0x00000002#32 ↔
      opField w = 2#4 ∧ w.extractLsb' 4 4 = 0#4 ∧ w.extractLsb' 26 6 = 0#6 := by
  rw [word_eq_iff_fields]
  simp [opField, BitVec.extractLsb'_and, and_ones_4, and_ones_6]

/-- SHUFFLE's mask tests besides these that A holds a group and that B is zero (R84). -/
theorem matches_shuffle_iff (w : Word) :
    w &&& 0xFFFFE0FF#32 = 0x00000003#32 ↔
      opField w = 3#4 ∧ w.extractLsb' 4 4 = 0#4 ∧ (w.extractLsb' 8 9).toNat < 32 ∧ w.extractLsb' 17 9 = 0#9 ∧
        w.extractLsb' 26 6 = 0#6 := by
  rw [word_eq_iff_fields, ← and_shuffle_mask_eq_zero_iff]
  simp [opField, BitVec.extractLsb'_and, and_ones_4, and_ones_6, and_ones_9]

/-! Operands as fields. -/

theorem startField_eq_ofNat (w : Word) : startField w = BitVec.ofNat 16 (w.toNat / 2 ^ 8 % 2 ^ 9) := by
  rw [startField, ← BitVec.ofNat_toNat, BitVec.extractLsb'_toNat, Nat.shiftRight_eq_div_pow]

theorem stopField_eq_ofNat (w : Word) : stopField w = BitVec.ofNat 16 (w.toNat / 2 ^ 17 % 2 ^ 9) := by
  rw [stopField, ← BitVec.ofNat_toNat, BitVec.extractLsb'_toNat, Nat.shiftRight_eq_div_pow]

theorem groupField_eq_ofNat (w : Word) : groupField w = BitVec.ofNat 8 (w.toNat / 2 ^ 8 % 2 ^ 5) := by
  rw [groupField, ← BitVec.ofNat_toNat, BitVec.extractLsb'_toNat, Nat.shiftRight_eq_div_pow]

/-- A field zero-extended (R82): the operand is in the field's range and cuts back to the field. -/
theorem eq_setWidth_iff {m n : Nat} (hmn : m ≤ n) (x : BitVec n) (field : BitVec m) :
    x = field.setWidth n ↔ x.toNat < 2 ^ m ∧ field = x.setWidth m := by
  simp only [← BitVec.toNat_inj, BitVec.toNat_setWidth]
  have hlt := field.isLt
  rw [Nat.mod_eq_of_lt (hlt.trans_le (Nat.pow_le_pow_right (by decide) hmn))]
  constructor
  · intro h
    rw [h]
    exact ⟨hlt, (Nat.mod_eq_of_lt hlt).symm⟩
  · rintro ⟨hx, h⟩
    rw [h, Nat.mod_eq_of_lt hx]

theorem eq_startField_iff (x : Half) (w : Word) :
    x = startField w ↔ x.toNat < 0x200 ∧ w.extractLsb' 8 9 = x.setWidth 9 := eq_setWidth_iff (by decide) _ _

theorem eq_stopField_iff (x : Half) (w : Word) :
    x = stopField w ↔ x.toNat < 0x200 ∧ w.extractLsb' 17 9 = x.setWidth 9 := eq_setWidth_iff (by decide) _ _

/-- Where A holds a group, the operand is the whole of A (R82). -/
theorem eq_groupField_iff (x : Byte) (w : Word) :
    (w.extractLsb' 8 9).toNat < 32 ∧ x = groupField w ↔ x.toNat < 32 ∧ w.extractLsb' 8 9 = x.setWidth 9 := by
  simp only [groupField, ← BitVec.toNat_inj, BitVec.toNat_setWidth, BitVec.extractLsb'_toNat, Nat.shiftRight_eq_div_pow]
  omega

/-! The decoder row by row. -/

/-- A word that two rows accept shows both patterns under both masks. -/
theorem patterns_agree_of_accepts {r r' : OpcodeRow} {w : Word} (h : r.accepts w = true) (h' : r'.accepts w = true) :
    r.pattern &&& r'.mask &&& r.mask = r'.pattern &&& r.mask &&& r'.mask := by
  simp only [OpcodeRow.accepts, beq_iff_eq] at h h'
  rw [← h, ← h']
  ac_rfl

/-- The rows are disjoint, so the first row that accepts a word is the only one (R84, R85). -/
theorem find_row_of_accepts {r : OpcodeRow} {w : Word} (hr : r ∈ opcodeTable) (h : r.accepts w = true) :
    opcodeTable.find? (fun r => r.accepts w) = some r := by
  obtain ⟨before, after, hsplit⟩ := List.append_of_mem hr
  have hdisjoint := opcodeTable_disjoint
  rw [hsplit, List.pairwise_append] at hdisjoint
  obtain ⟨-, -, hbefore⟩ := hdisjoint
  refine List.find?_eq_some_iff_append.2 ⟨h, before, after, hsplit, fun r' hr' => ?_⟩
  have hne := hbefore r' hr' r List.mem_cons_self
  simpa using fun h' => hne (patterns_agree_of_accepts h' h)

theorem decode_eq_command_iff_row (w : Word) (i : Instr) :
    decode w = .command i ↔ ∃ r ∈ opcodeTable, r.accepts w = true ∧ i = r.command w := by
  constructor
  · intro h
    unfold decode at h
    split at h
    · rename_i r hr
      cases h
      exact ⟨r, List.mem_of_find?_eq_some hr, by simpa using List.find?_some hr, rfl⟩
    · cases h
  · rintro ⟨r, hr, haccepts, rfl⟩
    rw [decode, find_row_of_accepts hr haccepts]

/-- Settles O3: the rows of the map one by one, with their operands as numbers. -/
theorem decodeFollowsOpcodeMap : Obligations.DecodeFollowsOpcodeMap := by
  intro w i
  rw [decode_eq_command_iff_row, ← startField_eq_ofNat, ← stopField_eq_ofNat, ← groupField_eq_ofNat]
  simp [opcodeTable, OpcodeRow.accepts]

/-! The encoder against the rows with operands. -/

theorem crypt_row_iff_encode (w : Word) (start stop : Half) :
    w &&& 0xFC0000FF#32 = 0x00000002#32 ∧ start = startField w ∧ stop = stopField w ↔
      (start.toNat < 0x200 ∧ stop.toNat < 0x200) ∧ w = encode (.crypt start stop) := by
  rw [matches_crypt_iff, eq_startField_iff, eq_stopField_iff, encode, eq_enc_iff]
  simp only [opcodeOf, fieldA, fieldB]
  tauto

theorem shuffle_row_iff_encode (w : Word) (group : Byte) :
    w &&& 0xFFFFE0FF#32 = 0x00000003#32 ∧ group = groupField w ↔ group.toNat < 32 ∧ w = encode (.shuffle group) := by
  have hgroup := eq_groupField_iff group w
  rw [matches_shuffle_iff, encode, eq_enc_iff]
  simp only [opcodeOf, fieldA, fieldB]
  tauto

/-- A word decodes to a command exactly when the command is well-formed and the word is its encoding (R82, R84, R90). -/
theorem decode_eq_command_iff_encode (w : Word) (i : Instr) :
    decode w = .command i ↔ i.wellFormed = true ∧ w = encode i := by
  rw [decode_eq_command_iff_row]
  cases i with
  | crypt start stop =>
    simpa [opcodeTable, OpcodeRow.accepts, Instr.wellFormed] using crypt_row_iff_encode w start stop
  | shuffle group => simpa [opcodeTable, OpcodeRow.accepts, Instr.wellFormed] using shuffle_row_iff_encode w group
  | _ => simp [opcodeTable, OpcodeRow.accepts, and_ones_32, Instr.wellFormed, encode, enc, opcodeOf, fieldA, fieldB]

/-- Settles O1: the encoding of a well-formed command is the word that decodes to it. -/
theorem decodeEncodeRoundTrip : Obligations.DecodeEncodeRoundTrip := fun i hi =>
  (decode_eq_command_iff_encode (encode i) i).2 ⟨hi, rfl⟩

/-- Settles O2: a word that decodes is the encoding of a well-formed command. -/
theorem encodeDecodeRoundTrip : Obligations.EncodeDecodeRoundTrip := fun w i h => by
  obtain ⟨hwf, rfl⟩ := (decode_eq_command_iff_encode w i).1 h
  exact ⟨hwf, rfl⟩

/-- Settles O4: the commands of the table are well-formed, so that encoding them is all there is to compute. -/
theorem tabledWordsDecode : Obligations.TabledWordsDecode := by
  intro p hp
  rw [decode_eq_command_iff_encode]
  revert p
  decide

end Sys2Proof.Proofs
end

section
/-!
PROOFS. The cipher of adjoining regions (42_cipher.md R140, R143), and from it the cipher pass as one region (R210 step 7).
-/
namespace Sys2Proof.Proofs
open Sys2Proof Sys2Proof.Machine Sys2Proof.Laws

/-- A cipher over a whole number of pairs goes on from the state it reached (R140). -/
theorem cipherBytes_append (x : Word) (bs cs : List Byte) (heven : bs.length % 2 = 0) :
    cipherBytes x (bs ++ cs) =
      ((cipherBytes (cipherBytes x bs).1 cs).1, (cipherBytes x bs).2 ++ (cipherBytes (cipherBytes x bs).1 cs).2) := by
  induction x, bs using cipherBytes.induct with
  | case1 x lo hi rest next ih =>
    have hrest : rest.length % 2 = 0 := by simp only [List.length_cons] at heven; omega
    simp only [List.cons_append, cipherBytes_pair, show cipherBytes (lcg x) (rest ++ cs) = _ from ih hrest]
    rfl
  | case2 x rest hshort =>
    obtain rfl : rest = [] := by
      match rest with
      | [] => rfl
      | [_] => simp at heven
      | lo :: hi :: rest => exact absurd rfl (hshort lo hi rest)
    simp

/-- Two stores that adjoin are one store. -/
theorem byte_storeBytes_append (s : State) (a : Nat) (vs ws : List Byte) (b : Nat) :
    ((s.storeBytes a vs).storeBytes (a + vs.length) ws).byte b = (s.storeBytes a (vs ++ ws)).byte b := by
  simp only [State.byte, storeBytes_mem, storeBytes_resets, memLookup_memStore, List.length_append,
    List.getElem?_append, Nat.sub_add_eq]
  by_cases hsecond : a + vs.length ≤ b
  · have hfirst : ¬ b < a + vs.length := by omega
    have habove : a ≤ b := by omega
    have hindex : ¬ b - a < vs.length := by omega
    simp only [hsecond, hfirst, habove, hindex, Nat.add_assoc, true_and, and_false, if_false]
  · by_cases habove : a ≤ b
    · have hfirst : b < a + vs.length := by omega
      have hwhole : b < a + (vs.length + ws.length) := by omega
      have hindex : b - a < vs.length := by omega
      simp only [hsecond, hfirst, habove, hindex, hwhole, false_and, and_self, if_true, if_false]
    · simp only [hsecond, habove, false_and, if_false]

theorem loadBytes_add (s : State) (a m n : Nat) : s.loadBytes a (m + n) = s.loadBytes a m ++ s.loadBytes (a + m) n := by
  rw [State.loadBytes, ← List.range'_append_1, List.map_append]
  rfl

theorem cryptRegion_snd (s : State) (x : Word) (a b : Nat) :
    (s.cryptRegion x a b).2 = s.storeBytes a (cipherBytes x (s.loadBytes a (b - a))).2 := rfl

/-- Ciphering two adjoining regions, the first of even length, is ciphering both in one (R143). -/
theorem cryptRegion_adjoining (s : State) (x : Word) {a b c : Nat} (hab : a ≤ b) (hbc : b ≤ c)
    (heven : (b - a) % 2 = 0) :
    ((s.cryptRegion x a b).2.cryptRegion (s.cryptRegion x a b).1 b c).1 = (s.cryptRegion x a c).1 ∧
      ∀ k, ((s.cryptRegion x a b).2.cryptRegion (s.cryptRegion x a b).1 b c).2.byte k =
        (s.cryptRegion x a c).2.byte k := by
  have hsecond : (s.cryptRegion x a b).2.loadBytes b (c - b) = s.loadBytes b (c - b) :=
    loadBytes_congr b (c - b) fun k hk _ => cryptRegion_byte_outside s x hab (.inr hk)
  have hwhole : s.loadBytes a (c - a) = s.loadBytes a (b - a) ++ s.loadBytes b (c - b) := by
    rw [show c - a = (b - a) + (c - b) by omega, loadBytes_add, Nat.add_sub_cancel' hab]
  have hcipher := cipherBytes_append x (s.loadBytes a (b - a)) (s.loadBytes b (c - b)) (by simpa using heven)
  rw [← hwhole] at hcipher
  constructor
  · rw [cryptRegion_fst, hsecond, cryptRegion_fst, cryptRegion_fst, hcipher]
  · intro k
    have hstore := byte_storeBytes_append s a (cipherBytes x (s.loadBytes a (b - a))).2
      (cipherBytes (s.cryptRegion x a b).1 (s.loadBytes b (c - b))).2 k
    rw [cipherBytes_length, loadBytes_length, Nat.add_sub_cancel' hab] at hstore
    rw [cryptRegion_snd, hsecond, cryptRegion_snd, hstore, cryptRegion_snd, cryptRegion_fst, hcipher]

/-- The cipher pass is one run over [0x8, CEND) (R210 step 7). -/
theorem cipherPass_eq_cryptRegion (s : State) (x : Word) :
    (s.cipherPass x).1 = (s.cryptRegion x 0x8 s.cend).1 ∧
      ∀ k, (s.cipherPass x).2.byte k = (s.cryptRegion x 0x8 s.cend).2.byte k := by
  unfold State.cipherPass State.cend
  by_cases hlen : s.len = 0x158
  · simp only [if_pos hlen]
    exact cryptRegion_adjoining s x (by omega) (by omega) (by omega)
  · simp only [if_neg hlen, implies_true, and_self]

end Sys2Proof.Proofs
end

section
/-!
PROOFS. ENCRYPT from the primitives of ENCSTEPS (30_encoding.md R89): the script line by line, and ENCRYPT's body beside it.
-/
namespace Sys2Proof.Proofs
open Sys2Proof Sys2Proof.Machine Sys2Proof.Laws

theorem step_scriptCommand {s : State} {i : Instr} {rest : List Transaction} (hs : s.script = scriptCommand i :: rest)
    (hf : s.fault = 0) (hi : i.wellFormed = true) : step s = exec i { s with script := rest } := by
  rw [step_cons hs, scriptCommand, scriptWrite, transact_cmd]
  exact issue_command hf (decodeEncodeRoundTrip i hi)

/-! When a buffer command executes. -/

section executed
variable {s : State} (hlen : s.lenOk = true)
include hlen

theorem exec_refresh_executed : exec .refresh s = .next (commandBody .refresh s).complete := by
  simp [exec, execRefresh, hlen, commandBody]

theorem exec_shuffle_executed {g : Byte} (hrow : s.checkRow g.toNat = none) :
    exec (.shuffle g) s = .next (commandBody (.shuffle g) s).complete := by
  simp [exec, execShuffle, hlen, hrow, commandBody]

theorem exec_crypt_executed {start stop : Half} (hstart : start ≤ stop) (hstop : stop ≤ s.len)
    (heven : (stop.toNat - start.toNat) % 2 = 0) :
    exec (.crypt start stop) s = .next (commandBody (.crypt start stop) s).complete := by
  have hrange : ¬ (stop < start ∨ s.len < stop) := by simp [hstart, hstop]
  simp [exec, execCrypt, hlen, hrange, heven, commandBody]

theorem exec_encrypt_executed (henc : s.encFlag = false) (htables : s.checkEncryptTables (selector s.ec) = none) :
    exec .encrypt s = .next (commandBody .encrypt s).complete := by
  simp [exec, execEncrypt, hlen, henc, htables, commandBody]

end executed

/-! The lines of ENCSTEPS. Between them stands a state `underway x …`, where `x` has the storage. -/

theorem memRead_congr {s t : State} (a n : Nat) (h : ∀ b, a ≤ b → b < a + n → s.byte b = t.byte b) :
    s.memRead a n = t.memRead a n := by
  rw [State.memRead, loadBytes_congr a n h, State.memRead]

theorem checksum_congr {s t : State} (h : ∀ a, s.byte a = t.byte a) : s.checksum = t.checksum := by
  simp only [State.checksum, memRead_congr _ _ fun b _ _ => h b]

/-- `x` with what the lines write beside storage, after a command that executed. -/
def underway (x : State) (csum : Half) (seed : Word) (script : List Transaction) (returned : List Word) : State :=
  { x with csum := csum, seed := seed, script := script, returned := returned, skip := false, outcome := some .executed }

section underway
variable {x : State} {c : Half} {seed : Word} {rest : List Transaction} {returned : List Word}

@[simp] theorem underway_byte (a : Nat) : (underway x c seed rest returned).byte a = x.byte a := byte_congr rfl rfl a

theorem shuffleBody_underway (g : Nat) :
    (underway x c seed rest returned).shuffleBody g = underway (x.shuffleBody g) c seed rest returned := rfl

theorem cryptRegion_underway (y : Word) (a b : Nat) :
    (underway x c seed rest returned).cryptRegion y a b =
      ((x.cryptRegion y a b).1, underway (x.cryptRegion y a b).2 c seed rest returned) := rfl

theorem step_command_underway {i : Instr} (hf : x.fault = 0) (hi : i.wellFormed = true) :
    step (underway x c seed (scriptCommand i :: rest) returned) = exec i (underway x c seed rest returned) :=
  step_scriptCommand rfl hf hi

theorem step_refresh (hs : x.script = scriptCommand .refresh :: rest) (hf : x.fault = 0) (hlen : x.lenOk = true) :
    step x = .next (underway (x.writeChecksum x.checksum) x.checksum x.seed rest x.returned) := by
  have hsum : State.checksum { x with script := rest } = x.checksum := checksum_congr fun a => byte_congr rfl rfl a
  have hexec := exec_refresh_executed (s := { x with script := rest }) hlen
  rw [step_scriptCommand hs hf rfl, hexec, commandBody, hsum]
  rfl

theorem step_readEc :
    step (underway x c seed (scriptRead 0x000 :: rest) returned) =
      .next (underway x c seed rest (returned ++ [x.ec])) := by
  have hread : (underway x c seed (scriptRead 0x000 :: rest) returned).hostRead (targetOf (slotAt 0x000)) = x.ec :=
    memRead_congr 0x0 4 fun b _ _ => underway_byte b
  rw [step_read rfl, hread]
  rfl

theorem step_ldSeed (v : Word) :
    step (underway x c seed (ldSeed v :: rest) returned) = .next (underway x c v rest returned) := by
  rw [step_write (slot := slotAt 0x314) rfl (by decide), targetOf_seed]
  rfl

theorem step_shuffle {g : Byte} (hf : x.fault = 0) (hlen : x.lenOk = true) (hg : g.toNat < 32)
    (hrow : x.checkRow g.toNat = none) :
    step (underway x c seed (scriptCommand (.shuffle g) :: rest) returned) =
      .next (underway (x.shuffleBody g.toNat) c seed rest returned) := by
  rw [step_command_underway hf (by simpa [Instr.wellFormed] using hg),
    exec_shuffle_executed (s := underway x c seed rest returned) hlen hrow, commandBody, shuffleBody_underway]
  rfl

theorem step_crypt {start stop : Half} (hf : x.fault = 0) (hlen : x.lenOk = true)
    (hwf : (Instr.crypt start stop).wellFormed = true) (hstart : start ≤ stop) (hstop : stop ≤ x.len)
    (heven : (stop.toNat - start.toNat) % 2 = 0) :
    step (underway x c seed (scriptCommand (.crypt start stop) :: rest) returned) =
      .next (underway (x.cryptRegion seed start.toNat stop.toNat).2 c
        (x.cryptRegion seed start.toNat stop.toNat).1 rest returned) := by
  rw [step_command_underway hf hwf,
    exec_crypt_executed (s := underway x c seed rest returned) hlen hstart hstop heven, commandBody,
    cryptRegion_underway]
  rfl

end underway

theorem len_toNat_eq_cend {s : State} (hlen : s.lenOk = true) : s.len.toNat = s.cend := by
  obtain h | h := (lenOk_eq_true_iff s).1 hlen <;> simp [State.cend, h]

/-- The last line's operands are well-formed and delimit a region of whole pairs. -/
theorem span_of_legal_length {n : Half} (h : n = 0x148 ∨ n = 0x158) :
    (Instr.crypt 0x8 n).wellFormed = true ∧ 0x8 ≤ n ∧ (n.toNat - BitVec.toNat (0x8 : Half)) % 2 = 0 := by
  obtain rfl | rfl := h <;> decide

/-- The state whose span [0x8, CEND) both ENCRYPT and the last line of ENCSTEPS cipher: field written, body shuffled. -/
def shuffledPlaintext (s : State) (g : Byte) : State := (s.writeChecksum s.checksum).shuffleBody g.toNat

/-- The five lines of ENCSTEPS, on a buffer whose length and row are legal (R89). -/
theorem runFor_encSteps {s : State} {g : Byte} {rest : List Transaction}
    (hs : s.script = encSteps g s.ec s.len ++ rest) (hf : s.fault = 0) (hlen : s.lenOk = true) (hg : g.toNat < 32)
    (hrow : s.checkRow g.toNat = none) :
    runFor 5 s =
      .next (underway ((shuffledPlaintext s g).cryptRegion s.ec 0x8 s.cend).2 s.checksum
        ((shuffledPlaintext s g).cryptRegion s.ec 0x8 s.cend).1 rest (s.returned ++ [s.ec])) := by
  have hec : (s.writeChecksum s.checksum).ec = s.ec :=
    memRead_congr 0x0 4 fun b _ hb => writeChecksum_byte_outside s _ (by omega)
  have hrow' : (s.writeChecksum s.checksum).checkRow g.toNat = none :=
    (checkRow_eq_none_congr fun k _ => writeChecksum_byte_outside s _ (by omega)).2 hrow
  obtain ⟨hwf, hstart, heven⟩ := span_of_legal_length ((lenOk_eq_true_iff s).1 hlen)
  simp only [encSteps, List.cons_append, List.nil_append] at hs
  rw [runFor_succ (step_refresh hs hf hlen), runFor_succ step_readEc, runFor_succ (step_ldSeed _),
    runFor_succ (step_shuffle (x := s.writeChecksum s.checksum) hf hlen hg hrow'),
    runFor_succ (step_crypt (x := (s.writeChecksum s.checksum).shuffleBody g.toNat) hf hlen hwf hstart
      (BitVec.le_refl s.len) heven),
    runFor_zero, hec, len_toNat_eq_cend hlen]
  rfl

/-! ENCRYPT beside them. -/

theorem bpi_selector_toNat (s : State) : (s.bpi (selector s.ec).toNat).toNat = groupValue s := by
  rw [State.bpi, selector_ec_toNat, groupValue]

theorem checkRow_eq_none_of_rowInRange {s : State} {g : Nat} (h : RowInRange s g) : s.checkRow g = none :=
  (checkRow_eq_none_iff s g).2 fun k hk => by
    rw [State.bp, ← Nat.add_assoc]
    exact h k hk

/-- The body of ENCRYPT ciphers the same state from the same seed, in one region (R210). -/
theorem encryptBody_eq_cryptRegion (s : State) :
    s.encryptBody.seed = ((shuffledPlaintext s (s.bpi (selector s.ec).toNat)).cryptRegion s.ec 0x8 s.cend).1 ∧
      ∀ a, s.encryptBody.byte a =
        ((shuffledPlaintext s (s.bpi (selector s.ec).toNat)).cryptRegion s.ec 0x8 s.cend).2.byte a := by
  obtain ⟨hseed, hbyte⟩ := cipherPass_eq_cryptRegion (shuffledPlaintext s (s.bpi (selector s.ec).toNat)) s.ec
  exact ⟨hseed, fun a => (byte_congr rfl (by simp) a).trans (hbyte a)⟩

/-- Settles O55: the first four lines prepare the state that ENCRYPT ciphers, and the last line ciphers it as ENCRYPT's
cipher pass does. -/
theorem encryptFromPrimitives : Obligations.EncryptFromPrimitives := by
  intro s rest hf hlegal henc hgroup hrow hs
  have hlen := (lenOk_eq_true_iff s).2 hlegal
  have hec : BitVec.ofNat 32 (ecValue s) = s.ec := by rw [← ec_toNat, BitVec.ofNat_toNat, BitVec.setWidth_eq]
  have hcheck := checkRow_eq_none_of_rowInRange hrow
  rw [← bpi_selector_toNat] at hcheck hgroup
  rw [hec, ← bpi_selector_toNat, BitVec.ofNat_toNat, BitVec.setWidth_eq] at hs
  have htables : s.checkEncryptTables (selector s.ec) = none :=
    (checkEncryptTables_eq_none_iff s _).2 ⟨hgroup, (checkRow_eq_none_iff s _).1 hcheck⟩
  obtain ⟨hseed, hbyte⟩ := encryptBody_eq_cryptRegion s
  refine ⟨_, _, exec_encrypt_executed hlen ((encFlag_eq_false_iff s).2 henc) htables, rfl,
    runFor_encSteps hs hf hlen (Nat.lt_succ_of_le hgroup) hcheck, fun a => ?_, (encryptBody_csum s).symm, hseed.symm,
    rfl, rfl, hf, rfl, ?_⟩
  · rw [underway_byte, complete_byte, commandBody, hbyte]
  · rw [hec]
    rfl

end Sys2Proof.Proofs
end

section
/-!
PROOFS. The command cycle (40_command_cycle.md R100 to R107): a step of each kind, the four outcomes of a CMD write
(R102), and what a faulting command leaves (R104).
-/
namespace Sys2Proof.Proofs
open Sys2Proof Sys2Proof.Machine Sys2Proof.Laws

/-- Settles O6: with FAULT clear and a word that decodes, issuing the word is running its command. -/
theorem stepRunsDecodedCommand : Obligations.StepRunsDecodedCommand := by
  intro s w rest i hs hf hw
  rw [step_cons hs, transact_cmd]
  exact issue_command hf hw

/-- A CMD write that meets a fault leaves nothing but the outcome tag (R101). -/
theorem step_dropped {s : State} {w : Word} {rest : List Transaction} (hs : s.script = .write (slotAt 0x300) w :: rest)
    (hf : s.fault ≠ 0) : step s = .next { s with script := rest, outcome := some .dropped } := by
  rw [step_cons hs, transact_cmd, issue_dropped (s := { s with script := rest }) hf]
  rfl

/-- Settles O7: the drop test stands in front of the decoder, so the word does not matter; the other transactions do not
make it. -/
theorem commandDroppedWhileFaulted : Obligations.CommandDroppedWhileFaulted := fun _ _ hf =>
  ⟨fun _ hs => step_dropped hs hf, fun slot _ hslot hs => step_write hs (mt (targetOf_eq_cmd_iff slot).1 hslot),
    fun _ hs => step_read hs⟩

/-- Settles O10: an empty script is the idle case of the step. -/
theorem idleKeepsState : Obligations.IdleKeepsState := fun _ => step_nil

theorem code_ne_zero (f : FaultCode) : f.code ≠ 0 := by cases f <;> decide

/-- Settles O26: of a command's endings only the raise of a fault has this outcome, and it writes FAULT and FINFO. -/
theorem faultWritesNothingElse : Obligations.FaultWritesNothingElse := by
  intro i s t h hfaulted
  cases exec_ending h with
  | faulted f info => exact ⟨code_ne_zero f, rfl⟩
  | skipped hskip => simp at hfaulted
  | executed => simp at hfaulted

/-- A command whose opcode no other command has is the command of one word only. -/
theorem onlyWord_encode {i : Instr} (hwf : i.wellFormed = true) (hop : ∀ j, opcodeOf j = opcodeOf i → j = i) :
    OnlyWord i (encode i) := by
  refine ⟨fun w => by rw [decode_eq_command_iff_encode, and_iff_right hwf], fun w hlow hne j hj => hne ?_⟩
  obtain ⟨-, rfl⟩ := (decode_eq_command_iff_encode w j).1 hj
  have hopField : opField (encode j) = opField (encode i) := by
    simpa [opField, ← BitVec.toNat_inj, BitVec.extractLsb'_toNat] using hlow
  rw [encode, enc_op, encode, enc_op] at hopField
  rw [hop j hopField]

/-- Settles O32: NOP's meaning is the end of an executed command, and no other command has opcode 0. -/
theorem nopResult : Obligations.NopResult :=
  ⟨fun _ => rfl, onlyWord_encode (i := .nop) rfl fun j hj => by cases j <;> simp [opcodeOf] at hj ⊢⟩

/-- Settles O8: the drop test and the decoder give the dropped and the illegal word; a word that decodes ends as its
command does, and the words of ENCRYPT and DECRYPT are 6 and 7. -/
theorem commandOutcomes : Obligations.CommandOutcomes := by
  intro s w rest hs
  by_cases hf : s.fault = 0
  · cases hw : decode w with
    | illegal why =>
      have hstep : step s = .next (State.raise { s with script := rest } .illegalCommand w) := by
        rw [step_cons hs, transact_cmd, issue_illegal (s := { s with script := rest }) hf hw]
      exact ⟨_, hstep, .inr (.inl ⟨hf, code_ne_zero .illegalCommand, rfl⟩)⟩
    | command i =>
      obtain ⟨t, hexec⟩ := exec_answers_next i { s with script := rest }
      refine ⟨t, (stepRunsDecodedCommand s w rest i hs hf hw).trans hexec, .inr ?_⟩
      cases exec_ending hexec with
      | faulted f info => exact .inl ⟨hf, code_ne_zero f, rfl⟩
      | skipped hskip =>
        obtain ⟨-, rfl⟩ := encodeDecodeRoundTrip w i hw
        have hword : encode i = 6 ∨ encode i = 7 := by
          obtain ⟨rfl, -⟩ | ⟨rfl, -⟩ := hskip
          · exact .inl rfl
          · exact .inr rfl
        exact .inr (.inl ⟨hf, hword, rfl⟩)
      | executed => exact .inr (.inr ⟨hf, ⟨i, rfl⟩, by simp [hf]⟩)
  · exact ⟨_, step_dropped hs hf, .inl ⟨hf, rfl⟩⟩

end Sys2Proof.Proofs
end

section
/-!
PROOFS. Runs of a host script (40_command_cycle.md R105, R106): every step goes on, a script comes to its end, and what
FAULT says there.
-/
namespace Sys2Proof.Proofs
open Sys2Proof Sys2Proof.Machine Sys2Proof.Laws

@[simp] theorem hostWrite_script (s : State) (target : Target) (d : Word) :
    (s.hostWrite target d).script = s.script := by
  cases target with
  | ctrl => rw [State.hostWrite]; split <;> rfl
  | _ => rfl

/-- Settles O9: a CMD write goes on by its four outcomes, and the other transactions have one next state each. -/
theorem everyStepAnswersNext : Obligations.EveryStepAnswersNext := by
  intro s
  cases hs : s.script with
  | nil => exact ⟨s, step_nil hs, hs⟩
  | cons x rest =>
    cases x with
    | write slot d =>
      by_cases hslot : targetOf slot = .cmd
      · obtain rfl := (targetOf_eq_cmd_iff slot).1 hslot
        obtain ⟨t, hstep, ⟨-, ht⟩ | ⟨-, -, ht⟩ | ⟨-, -, ht⟩ | ⟨-, -, -, -, -, -, -, hscript⟩⟩ :=
          commandOutcomes s d rest hs
        · exact ⟨t, hstep, by rw [ht]; rfl⟩
        · exact ⟨t, hstep, by rw [ht]; rfl⟩
        · exact ⟨t, hstep, by rw [ht]; rfl⟩
        · exact ⟨t, hstep, hscript⟩
      · exact ⟨_, step_write hs hslot, hostWrite_script _ _ _⟩
    | read slot => exact ⟨_, step_read hs, rfl⟩
    | reset => exact ⟨_, step_cons hs, rfl⟩

/-- Any number of steps goes on, and takes as many transactions off the script. -/
theorem runFor_script (k : Nat) (s : State) : ∃ t, runFor k s = .next t ∧ t.script = s.script.drop k := by
  induction k generalizing s with
  | zero => exact ⟨s, runFor_zero s, rfl⟩
  | succ k ih =>
    obtain ⟨s', hstep, hscript⟩ := everyStepAnswersNext s
    obtain ⟨t, hrun, ht⟩ := ih s'
    refine ⟨t, (runFor_succ hstep).trans hrun, ?_⟩
    rw [ht, hscript, List.drop_tail]

/-- Settles O11: as many steps as the script is long leave nothing of it. -/
theorem scriptRunsToItsEnd : Obligations.ScriptRunsToItsEnd := by
  intro s
  obtain ⟨t, hrun, ht⟩ := runFor_script s.script.length s
  exact ⟨t, hrun, ht.trans List.drop_length⟩

/-- The next transaction is not a CMD write that ends in a fault. -/
def NextCommandDoesNotFault (s : State) : Prop :=
  ∀ (w : Word) (rest : List Transaction), s.script = .write (slotAt 0x300) w :: rest →
    ∃ t, step s = .next t ∧ t.outcome ≠ some .faulted

/-- A CMD write that meets FAULT 0 raises it exactly when its outcome is a fault (R102). -/
theorem command_fault_eq_zero_iff {s t : State} {w : Word} {rest : List Transaction}
    (hs : s.script = .write (slotAt 0x300) w :: rest) (hf : s.fault = 0) (h : step s = .next t) :
    t.fault = 0 ↔ t.outcome ≠ some .faulted := by
  obtain ⟨t', h', hout⟩ := commandOutcomes s w rest hs
  obtain rfl := Host.Outcome.next.inj (h.symm.trans h')
  obtain ⟨hdropped, -⟩ | ⟨-, hfault, ht⟩ | ⟨-, -, ht⟩ | ⟨-, -, hexecuted, -, hfault, -⟩ := hout
  · exact absurd hf hdropped
  · have hfaulted : t.outcome = some .faulted := by rw [ht]
    exact iff_of_false hfault (not_not_intro hfaulted)
  · simp [ht, hf]
  · simp [hexecuted, hfault]

/-- A step that begins with FAULT 0 leaves it 0 unless it is a CMD write that faults (R29, R102). -/
theorem step_fault_eq_zero_iff {s t : State} (h : step s = .next t) (hf : s.fault = 0) :
    t.fault = 0 ↔ NextCommandDoesNotFault s := by
  constructor
  · exact fun ht w rest hs => ⟨t, h, (command_fault_eq_zero_iff hs hf h).1 ht⟩
  · intro hnext
    obtain ht | ⟨-, -, w, rest, hs⟩ := (faultIsSticky s t h).2 hf
    · exact ht
    · obtain ⟨t', h', houtcome⟩ := hnext w rest hs
      obtain rfl := Host.Outcome.next.inj (h.symm.trans h')
      exact (command_fault_eq_zero_iff hs hf h).2 houtcome

/-- None of the first `k` steps from `s` is a CMD write that ends in a fault. -/
def NoCommandFaults (k : Nat) (s : State) : Prop :=
  ∀ j < k, ∀ u, runFor j s = .next u → NextCommandDoesNotFault u

theorem noCommandFaults_zero (s : State) : NoCommandFaults 0 s := fun _ hj => absurd hj (Nat.not_lt_zero _)

theorem noCommandFaults_succ {k : Nat} {s t : State} (h : step s = .next t) :
    NoCommandFaults (k + 1) s ↔ NextCommandDoesNotFault s ∧ NoCommandFaults k t := by
  simp only [NoCommandFaults, Nat.forall_lt_succ_left, runFor_zero, runFor_succ h, Host.Outcome.next.injEq,
    forall_eq']

/-- A run whose transactions do not clear the fault keeps it (R29). -/
theorem runFor_keeps_fault {k : Nat} {s t : State} (hclear : ∀ x ∈ s.script, clearsFault x = false)
    (h : runFor k s = .next t) (hf : s.fault ≠ 0) : t.fault ≠ 0 := by
  induction k generalizing s with
  | zero =>
    obtain rfl := Host.Outcome.next.inj h
    exact hf
  | succ k ih =>
    obtain ⟨s', hstep, hscript⟩ := everyStepAnswersNext s
    rw [runFor_succ hstep] at h
    obtain ⟨x, rest, hs, hx, -⟩ | ⟨hkeep, -⟩ := (faultIsSticky s s' hstep).1 hf
    · simp [hclear x (by simp [hs])] at hx
    · exact ih (fun x hx => hclear x (List.mem_of_mem_tail (hscript ▸ hx))) h (hkeep ▸ hf)

/-- After any number of steps without a transaction that clears the fault: once a command has faulted FAULT stays, and
until then it is 0 (R106). -/
theorem runFor_fault_eq_zero_iff {k : Nat} {s t : State} (hclear : ∀ x ∈ s.script, clearsFault x = false)
    (h : runFor k s = .next t) (hf : s.fault = 0) : t.fault = 0 ↔ NoCommandFaults k s := by
  induction k generalizing s with
  | zero =>
    obtain rfl := Host.Outcome.next.inj h
    exact iff_of_true hf (noCommandFaults_zero s)
  | succ k ih =>
    obtain ⟨s', hstep, hscript⟩ := everyStepAnswersNext s
    have hclear' : ∀ x ∈ s'.script, clearsFault x = false :=
      fun x hx => hclear x (List.mem_of_mem_tail (hscript ▸ hx))
    rw [runFor_succ hstep] at h
    rw [noCommandFaults_succ hstep, ← step_fault_eq_zero_iff hstep hf]
    by_cases hf' : s'.fault = 0
    · rw [ih hclear' h hf', and_iff_right hf']
    · exact iff_of_false (runFor_keeps_fault hclear' h hf') fun hnone => hf' hnone.1

/-- Settles O12: the run is the whole script, as many steps as it has transactions. -/
theorem noFaultAtTheEndMeansNoFault : Obligations.NoFaultAtTheEndMeansNoFault := by
  intro s t hclear hrun hf
  rw [runFor_fault_eq_zero_iff hclear hrun hf]
  exact ⟨fun h k hk u w rest hu hs => h k hk u hu w rest hs, fun h k hk u hu w rest hs => h k hk u w rest hu hs⟩

end Sys2Proof.Proofs
end

section
/-!
PROOFS. The keystream generator and ADVANCE (41_keystream.md R120, R121): the LCG as exact arithmetic, its two bytes as
bit fields, and the halfword that ADVANCE leaves in KS.
-/
namespace Sys2Proof.Proofs
open Sys2Proof Sys2Proof.Machine Sys2Proof.Laws

/-- The literals stand on the other side here than in `lcg`, as in R120's formula. -/
theorem lcg_toNat (x : Word) : (lcg x).toNat = (x.toNat * 0x41C64E6D + 0x6073) % 2 ^ 32 := by
  rw [lcg, BitVec.toNat_add, BitVec.toNat_mul, Nat.add_mod_mod, Nat.add_comm, Nat.mul_comm]
  rfl

theorem byteLo_toNat (x : Word) : (byteLo x).toNat = x.toNat / 2 ^ 16 % 0x100 := by
  rw [byteLo, BitVec.extractLsb'_toNat, Nat.shiftRight_eq_div_pow]

theorem byteHi_toNat (x : Word) : (byteHi x).toNat = x.toNat / 2 ^ 24 % 0x100 := by
  rw [byteHi, BitVec.extractLsb'_toNat, Nat.shiftRight_eq_div_pow]

/-- The two bytes stand next to each other in the word, so together they are its high halfword (R121). -/
theorem byteHi_append_byteLo (x : Word) : byteHi x ++ byteLo x = x.extractLsb' 16 16 :=
  BitVec.extractLsb'_append_extractLsb'_eq_extractLsb' rfl

theorem byteHi_append_byteLo_toNat (x : Word) : (byteHi x ++ byteLo x).toNat = x.toNat / 2 ^ 16 := by
  rw [byteHi_append_byteLo, BitVec.extractLsb'_toNat, Nat.shiftRight_eq_div_pow]
  exact Nat.mod_eq_of_lt (Nat.div_lt_of_lt_mul x.isLt)

/-- Settles O33: the reduction of the product is absorbed by the reduction of the sum, and each byte is the quotient by a
power of 2 reduced to 8 bits. -/
theorem lcgArithmetic : Obligations.LcgArithmetic := fun x => ⟨lcg_toNat x, byteLo_toNat x, byteHi_toNat x⟩

/-- Settles O34: ADVANCE's meaning has no branch, its KS is the high halfword of the new SEED, and no other command has
opcode 1. -/
theorem advanceResult : Obligations.AdvanceResult :=
  ⟨fun s => ⟨_, rfl, rfl, lcg_toNat s.seed, byteHi_append_byteLo_toNat (lcg s.seed)⟩,
    onlyWord_encode (i := .advance) rfl fun j hj => by cases j <;> simp [opcodeOf] at hj ⊢⟩

end Sys2Proof.Proofs
end

section
/-!
PROOFS. The region cipher and CRYPT (42_cipher.md R140, R142, R143): the cipher byte by byte against the keystream, CRYPT's
result, and from it that CRYPT restores what it ciphered and goes on where it stopped.
-/
namespace Sys2Proof.Proofs
open Sys2Proof Sys2Proof.Machine Sys2Proof.Laws

/-! The keystream begins with the two bytes of the next LCG state and goes on from there (R120, R122). -/

theorem keystreamByte_zero (x : Word) : keystreamByte x 0 = byteLo (lcg x) := rfl

theorem keystreamByte_one (x : Word) : keystreamByte x 1 = byteHi (lcg x) := rfl

theorem keystreamByte_add_two (x : Word) (k : Nat) : keystreamByte x (k + 2) = keystreamByte (lcg x) k := by
  rw [keystreamByte, keystreamByte, Nat.add_mod_right, Nat.add_div_right k Nat.two_pos, Function.iterate_succ_apply]

/-! The cipher makes one step per pair, and XORs each byte with the keystream byte of its index (R140). -/

theorem cipherBytes_fst (x : Word) (bs : List Byte) : (cipherBytes x bs).1 = lcg^[bs.length / 2] x := by
  match bs with
  | [] => simp
  | [_] => simp [cipherBytes]
  | lo :: hi :: rest =>
    have hpairs : (lo :: hi :: rest).length / 2 = rest.length / 2 + 1 := Nat.add_div_right rest.length Nat.two_pos
    rw [cipherBytes_pair, hpairs, Function.iterate_succ_apply, cipherBytes_fst (lcg x) rest]

theorem cipherBytes_getElem (x : Word) (bs : List Byte) (heven : bs.length % 2 = 0) (k : Nat) (hk : k < bs.length) :
    (cipherBytes x bs).2[k]'(by simpa using hk) = bs[k] ^^^ keystreamByte x k := by
  match bs, k with
  | [], _ => simp at hk
  | [_], _ => simp at heven
  | lo :: hi :: rest, 0 => simp [cipherBytes_pair, keystreamByte_zero]
  | lo :: hi :: rest, 1 => simp [cipherBytes_pair, keystreamByte_one]
  | lo :: hi :: rest, k + 2 =>
    simp only [cipherBytes_pair, keystreamByte_add_two, List.getElem_cons_succ]
    exact cipherBytes_getElem (lcg x) rest ((Nat.add_mod_right rest.length 2).symm.trans heven) k (by simpa using hk)

theorem cryptRegion_fst_eq_iterate (s : State) (x : Word) (a b : Nat) :
    (s.cryptRegion x a b).1 = lcg^[(b - a) / 2] x := by
  rw [cryptRegion_fst, cipherBytes_fst, loadBytes_length]

/-- Byte `k` of a region within BUF (R140); `cryptRegion_byte_outside` says the rest. -/
theorem cryptRegion_byte_inside (s : State) (x : Word) {a b : Nat} (hb : b ≤ 0x158) (heven : (b - a) % 2 = 0) {k : Nat}
    (hk : k < b - a) : (s.cryptRegion x a b).2.byte (a + k) = s.byte (a + k) ^^^ keystreamByte x k := by
  have hstorage : isStorage (a + k) = true := (isStorage_iff _).2 (.inl (by omega))
  rw [cryptRegion_snd, byte_storeBytes_inside s a _ k (by simpa using hk) hstorage,
    cipherBytes_getElem x _ (by simpa using heven) k (by simpa using hk), loadBytes_getElem]

/-! CRYPT of a legal region. -/

theorem crypt_executed_byte (s : State) (start stop : Half) (a : Nat) :
    (commandBody (.crypt start stop) s).complete.byte a =
      (s.cryptRegion s.seed start.toNat stop.toNat).2.byte a := by
  rw [complete_byte]
  exact byte_congr rfl rfl a

theorem crypt_executed_frame (s : State) (start stop : Half) :
    (commandBody (.crypt start stop) s).complete =
      { s with
        mem := (commandBody (.crypt start stop) s).complete.mem
        seed := lcg^[(stop.toNat - start.toNat) / 2] s.seed, skip := false, outcome := some .executed } := by
  rw [← cryptRegion_fst_eq_iterate s s.seed]
  rfl

/-- Settles O35: with the legal region none of CRYPT's three checks fails, and what it then carries out is the region
cipher, known byte by byte inside the region and outside it. -/
theorem cryptResult : Obligations.CryptResult := by
  intro s start stop hlegal hstart hstop heven
  have hbuf : s.len.toNat ≤ 0x158 := by rcases hlegal with h | h <;> simp [h]
  refine ⟨_, exec_crypt_executed ((lenOk_eq_true_iff s).2 hlegal) hstart hstop heven,
    crypt_executed_frame s start stop, fun k hk => ?_, fun a ha => ?_⟩
  · rw [crypt_executed_byte]
    exact cryptRegion_byte_inside s s.seed (hstop.trans hbuf) heven hk
  · rw [crypt_executed_byte]
    exact cryptRegion_byte_outside s s.seed hstart ha

/-- Settles O37: the second run XORs each byte of the region with the keystream byte of the first, which cancels. -/
theorem cryptTwiceRestores : Obligations.CryptTwiceRestores := by
  intro s start stop hlegal hstart hstop heven
  obtain ⟨t, ht, hframe, hinside, houtside⟩ := cryptResult s start stop hlegal hstart hstop heven
  have hlen : t.len = s.len := by rw [hframe]
  obtain ⟨u, hu, hframe', hinside', houtside'⟩ :=
    cryptResult { t with seed := s.seed } start stop (by simpa only [hlen] using hlegal) hstart
      (by simpa only [hlen] using hstop) heven
  have hreseed (a : Nat) : State.byte { t with seed := s.seed } a = t.byte a := byte_congr rfl rfl a
  refine ⟨t, u, ht, hu, by rw [hframe', hframe], fun a => ?_⟩
  by_cases ha : a < start.toNat ∨ stop.toNat ≤ a
  · rw [houtside' a ha, hreseed, houtside a ha]
  · obtain ⟨k, rfl⟩ := Nat.exists_eq_add_of_le (show start.toNat ≤ a by omega)
    have hk : k < stop.toNat - start.toNat := by omega
    rw [hinside' k hk, hreseed, hinside k hk, BitVec.xor_assoc, BitVec.xor_self, BitVec.xor_zero]

/-- Settles O38: the second part starts from the LCG state in SEED, where the first part's cipher stopped, so the two ciphers
are one of the whole region. -/
theorem cryptContinues : Obligations.CryptContinues := by
  intro s start mid stop hlegal hmid hstop hbuf heven heven'
  have hlen := (lenOk_eq_true_iff s).2 hlegal
  obtain ⟨hseed, hbyte⟩ := cryptRegion_adjoining s s.seed hmid hstop heven
  refine ⟨_, _, _, exec_crypt_executed hlen hmid (hstop.trans hbuf) heven,
    exec_crypt_executed (s := (commandBody (.crypt start mid) s).complete) hlen hstop hbuf heven',
    exec_crypt_executed hlen (hmid.trans hstop) hbuf (by omega), ?_, fun a => ?_⟩
  · rw [crypt_executed_frame s start stop, ← cryptRegion_fst_eq_iterate s s.seed, ← hseed]
    rfl
  · rw [crypt_executed_byte, crypt_executed_byte, ← hbyte]
    exact byte_congr rfl rfl a

end Sys2Proof.Proofs
end

section
/-!
PROOFS. The block permutation and SHUFFLE (43_shuffle.md R160 to R163): the shuffled body byte by byte, the first entry of a
row above 3 as a number, and from them SHUFFLE's two results and that the inverse row restores the buffer.
-/
namespace Sys2Proof.Proofs
open Sys2Proof Sys2Proof.Machine Sys2Proof.Laws

/-! A row's entries: as BP holds them, as the permutation reads them, and as numbers. -/

theorem bp_toNat (s : State) (g k : Nat) : (s.bp (4 * g + k)).toNat = sourceBlock s g k := by
  rw [State.bp, sourceBlock, Nat.add_assoc]

theorem row_eq_map_sourceBlock (s : State) (g : Nat) : s.row g = (List.range 4).map (sourceBlock s g) :=
  List.map_congr_left fun k _ => bp_toNat s g k

theorem row_le_three {s : State} {g : Nat} (h : RowInRange s g) : ∀ b ∈ s.row g, b ≤ 3 := by
  rw [row_eq_map_sourceBlock]
  exact List.forall_mem_map.2 fun k hk => h k (List.mem_range.1 hk)

/-! The permuted body (R160). -/

/-- Byte `j` of destination block `b` is byte `j` of the source block that stands at `b`: the blocks in front of it are
whole. -/
theorem permuteBlocks_getElem? (snap : List Byte) (hsnap : snap.length = 0x140) (sources : List Nat)
    (hle : ∀ c ∈ sources, c ≤ 3) {b j : Nat} (hb : b < sources.length) (hj : j < 0x50) :
    (permuteBlocks snap sources)[0x50 * b + j]? = snap[0x50 * sources[b] + j]? := by
  induction sources generalizing b with
  | nil => simp at hb
  | cons c cs ih =>
    obtain ⟨hc, hcs⟩ := List.forall_mem_cons.1 hle
    have hblock : ((snap.drop (0x50 * c)).take 0x50).length = 0x50 := by
      rw [List.length_take, List.length_drop]
      omega
    have hcons : permuteBlocks snap (c :: cs) = (snap.drop (0x50 * c)).take 0x50 ++ permuteBlocks snap cs := rfl
    rw [hcons]
    cases b with
    | zero =>
      rw [List.getElem?_append_left (by omega), Nat.mul_zero, Nat.zero_add, List.getElem?_take_of_lt hj,
        List.getElem?_drop]
      rfl
    | succ b =>
      rw [List.getElem?_append_right (by omega), hblock, show 0x50 * (b + 1) + j - 0x50 = 0x50 * b + j by omega]
      exact ih hcs (Nat.lt_of_succ_lt_succ hb)

/-- Every byte of the body comes from the old body; `shuffleBody_byte_outside` says the rest. -/
theorem shuffleBody_byte_inside {s : State} {g : Nat} (h : RowInRange s g) {b j : Nat} (hb : b < 4) (hj : j < 0x50) :
    (s.shuffleBody g).byte (0x8 + 0x50 * b + j) = s.byte (0x8 + 0x50 * sourceBlock s g b + j) := by
  have hsource := h b hb
  have hget : (permuteBlocks (s.loadBytes 0x8 0x140) (s.row g))[0x50 * b + j]? =
      some (s.byte (0x8 + (0x50 * sourceBlock s g b + j))) := by
    have hin : 0x50 * sourceBlock s g b + j < (s.loadBytes 0x8 0x140).length := by
      rw [loadBytes_length]
      omega
    rw [permuteBlocks_getElem? _ (loadBytes_length s 0x8 0x140) _ (row_le_three h) (by simpa [State.row] using hb) hj]
    simp only [row_eq_map_sourceBlock, List.getElem_map, List.getElem_range]
    rw [List.getElem?_eq_getElem hin, loadBytes_getElem]
  obtain ⟨hlt, hvalue⟩ := List.getElem?_eq_some_iff.1 hget
  have hstorage : isStorage (0x8 + (0x50 * b + j)) = true := (isStorage_iff _).2 (.inl (by omega))
  rw [Nat.add_assoc, Nat.add_assoc, ← hvalue]
  exact byte_storeBytes_inside s 0x8 _ _ hlt hstorage

/-- The body is its four blocks of 0x50 bytes. -/
theorem exists_block_offset {a : Nat} (ha : ¬ (a < 0x8 ∨ 0x148 ≤ a)) :
    ∃ b < 4, ∃ j < 0x50, a = 0x8 + 0x50 * b + j :=
  ⟨(a - 0x8) / 0x50, by omega, (a - 0x8) % 0x50, by omega, by omega⟩

/-- Settles O39: a row in range passes both of SHUFFLE's checks, and what it then carries out is the permutation, known byte
by byte inside the body and outside it. -/
theorem shuffleResult : Obligations.ShuffleResult := by
  intro s group hlegal hrow
  have hcheck := checkRow_eq_none_of_rowInRange hrow
  refine ⟨_, exec_shuffle_executed ((lenOk_eq_true_iff s).2 hlegal) hcheck, rfl, fun b hb j hj => ?_, fun a ha => ?_⟩
  · rw [complete_byte]
    exact shuffleBody_byte_inside hrow hb hj
  · rw [complete_byte]
    exact shuffleBody_byte_outside hcheck ha

/-! A row with an entry above 3 (R161). -/

/-- The three bytes of BAD_TABLE_ENTRY's information are the digits of one number (R231). -/
theorem tableInfo_toNat (value table index : Byte) :
    (tableInfo value table index).toNat = value.toNat * 0x10000 + table.toNat * 0x100 + index.toNat := by
  rw [tableInfo, BitVec.toNat_setWidth_of_le (by decide), append_toNat, append_toNat]
  omega

/-- `check_row` reports entry `k` when it is the first above 3. -/
theorem checkRow_eq_some_of_first {s : State} {g k : Nat} (hg : g < 32) (hk : k < 4) (hbad : 3 < sourceBlock s g k)
    (hfirst : ∀ j < k, sourceBlock s g j ≤ 3) :
    s.checkRow g = some (BitVec.ofNat 32 (sourceBlock s g k * 0x10000 + (4 * g + k))) := by
  have hfind : (List.range 4).find? (fun i => decide (3 < (s.bp (4 * g + i)).toNat)) = some k := by
    simp only [bp_toNat]
    rw [List.find?_range_eq_some]
    exact ⟨decide_eq_true hbad, List.mem_range.2 hk, fun j hj => by simpa using hfirst j hj⟩
  have hvalue : sourceBlock s g k < 0x100 := (s.byte _).isLt
  rw [State.checkRow, hfind, Option.map_some, Option.some_inj, ← BitVec.toNat_inj, tableInfo_toNat, bp_toNat]
  simp only [BitVec.ofNat_eq_ofNat, BitVec.toNat_ofNat]
  omega

theorem exec_shuffle_badTableEntry {s : State} {g : Byte} {info : Word} (hlen : s.lenOk = true)
    (hrow : s.checkRow g.toNat = some info) : exec (.shuffle g) s = .next (s.raise .badTableEntry info) := by
  simp [exec, execShuffle, hlen, hrow]

/-- Settles O40: the length test passes, and `check_row` reports the first entry above 3. -/
theorem shuffleBadRowFaults : Obligations.ShuffleBadRowFaults := by
  intro s group k hlegal hg hk hbad hfirst
  exact exec_shuffle_badTableEntry ((lenOk_eq_true_iff s).2 hlegal) (checkRow_eq_some_of_first hg hk hbad hfirst)

/-- A row is read from BP, which lies outside the body. -/
theorem sourceBlock_congr {s t : State} (h : ∀ a, a < 0x8 ∨ 0x148 ≤ a → t.byte a = s.byte a) (g b : Nat) :
    sourceBlock t g b = sourceBlock s g b := by
  rw [sourceBlock, h _ (.inr (by omega)), sourceBlock]

/-- Settles O41: block b of the second result is block q(b) of the first, which is block p(q(b)) = b of the old body. -/
theorem shuffleInverseRestores : Obligations.ShuffleInverseRestores := by
  intro s p q hlegal hp hq hcancel
  obtain ⟨t, ht, hframe, hinside, houtside⟩ := shuffleResult s p hlegal hp
  have hrows := sourceBlock_congr houtside q.toNat
  have hlegal' : t.len = 0x148 ∨ t.len = 0x158 := by
    rw [hframe]
    exact hlegal
  obtain ⟨u, hu, -, hinside', houtside'⟩ :=
    shuffleResult t q hlegal' fun k hk => (hrows k).trans_le (hq k hk)
  refine ⟨t, u, ht, hu, fun a => ?_⟩
  by_cases ha : a < 0x8 ∨ 0x148 ≤ a
  · rw [houtside' a ha, houtside a ha]
  · obtain ⟨b, hb, j, hj, rfl⟩ := exists_block_offset ha
    rw [hinside' b hb j hj, hrows, hinside _ (Nat.lt_succ_of_le (hq b hb)) j hj, hcancel b hb]

end Sys2Proof.Proofs
end

section
/-!
PROOFS. The checksum (44_checksum.md R180 to R186): the accumulator as the exact word sum reduced once, from it CHECKSUM
and REFRESH, and that a permutation of the body's blocks keeps the sum (R183).
-/
namespace Sys2Proof.Proofs
open Sys2Proof Sys2Proof.Machine Sys2Proof.Laws

/-! The accumulator (R180). -/

/-- The little-endian 16-bit word at an offset, as a number. -/
def wordValue (s : State) (a : Nat) : Nat := (s.byte a).toNat + 0x100 * (s.byte (a + 1)).toNat

theorem memRead_half_toNat (s : State) (a : Nat) : (s.memRead a 2).toNat = wordValue s a := by
  rw [memRead_toNat s a 2 (by decide), wordValue]
  simp [List.range'_succ, Nat.ofDigits_cons]

theorem memRead_half_eq_ofNat (s : State) (a : Nat) :
    (s.memRead a 2).setWidth 16 = BitVec.ofNat 16 (wordValue s a) := by
  rw [← memRead_half_toNat, BitVec.ofNat_toNat]

theorem bodySum_eq_sum_wordValue (s : State) :
    bodySum s = ((List.range 0xA0).map fun j => wordValue s (0x8 + 2 * j)).sum := rfl

/-- Reducing after every addition is reducing the exact sum once. -/
theorem foldl_add_ofNat {w : Nat} (g : Nat → Nat) (l : List Nat) (n : Nat) :
    l.foldl (fun acc i => acc + BitVec.ofNat w (g i)) (BitVec.ofNat w n) = BitVec.ofNat w (n + (l.map g).sum) := by
  induction l generalizing n with
  | nil => rfl
  | cons i l ih => rw [List.foldl_cons, ← BitVec.ofNat_add, ih, List.map_cons, List.sum_cons, Nat.add_assoc]

/-- The accumulator visits the words that `bodySum` adds up, in the same order. -/
theorem checksum_eq_ofNat_bodySum (s : State) : s.checksum = BitVec.ofNat 16 (bodySum s) := by
  have hoffsets : List.range' 0x8 0xA0 2 = (List.range 0xA0).map (0x8 + 2 * ·) := by decide
  simp only [State.checksum, memRead_half_eq_ofNat]
  refine (foldl_add_ofNat (wordValue s) (List.range' 0x8 0xA0 2) 0).trans ?_
  rw [Nat.zero_add, hoffsets, List.map_map, bodySum_eq_sum_wordValue]
  rfl

/-- The two bytes of the checksum field, low byte first (R186); `writeChecksum_byte_outside` says the rest. -/
theorem writeChecksum_byte_field (s : State) (c : Half) {j : Nat} (hj : j < 2) :
    ((s.writeChecksum c).byte (0x6 + j)).toNat = c.toNat / 2 ^ (8 * j) % 0x100 := by
  have hstorage : isStorage (0x6 + j) = true := (isStorage_iff _).2 (.inl (by omega))
  rw [State.writeChecksum, State.memWrite, byte_storeBytes_inside s 0x6 _ j (by simpa using hj) hstorage,
    wordBytes_getElem_toNat, halfWord_toNat]

/-! CHECKSUM and REFRESH. -/

theorem exec_checksum_executed {s : State} (hlen : s.lenOk = true) :
    exec .checksum s = .next (commandBody .checksum s).complete := by
  simp [exec, execChecksum, hlen, commandBody]

/-- The length test is the first check of the six buffer commands (R103, R233). -/
theorem exec_invalidLength {i : Instr} {s : State} (hnop : i ≠ .nop) (hadvance : i ≠ .advance)
    (hlen : s.lenOk = false) : exec i s = .next s.raiseInvalidLength := by
  cases i with
  | nop => exact absurd rfl hnop
  | advance => exact absurd rfl hadvance
  | crypt start stop => simp [exec, execCrypt, hlen]
  | shuffle group => simp [exec, execShuffle, hlen]
  | checksum => simp [exec, execChecksum, hlen]
  | refresh => simp [exec, execRefresh, hlen]
  | encrypt => simp [exec, execEncrypt, hlen]
  | decrypt => simp [exec, execDecrypt, hlen]

theorem lenOk_eq_false {s : State} (h148 : s.len ≠ 0x148) (h158 : s.len ≠ 0x158) : s.lenOk = false := by
  rw [← Bool.not_eq_true, lenOk_eq_true_iff, not_or]
  exact ⟨h148, h158⟩

theorem raiseInvalidLength_eq_update (s : State) :
    s.raiseInvalidLength = { s with fault := 2, finfo := BitVec.ofNat 32 s.len.toNat, outcome := some .faulted } := by
  rw [raiseInvalidLength_eq, lengthInfo, BitVec.ofNat_toNat]
  rfl

/-- Settles O43: the accumulator is the exact sum reduced once, the length test is CHECKSUM's only check, and no other
command has opcode 4. -/
theorem checksumResult : Obligations.ChecksumResult := by
  refine ⟨fun s hlegal => ?_, fun s h148 h158 => ?_,
    onlyWord_encode (i := .checksum) rfl fun j hj => by cases j <;> simp [opcodeOf] at hj ⊢⟩
  · rw [exec_checksum_executed ((lenOk_eq_true_iff s).2 hlegal), commandBody, checksum_eq_ofNat_bodySum]
    rfl
  · rw [exec_invalidLength (by simp) (by simp) (lenOk_eq_false h148 h158), raiseInvalidLength_eq_update]

/-- What REFRESH leaves of registers (R186), for any value in the checksum's place. -/
theorem refreshed_frame (s : State) (c : Half) :
    State.complete { s.writeChecksum c with csum := c } =
      { s with mem := (s.writeChecksum c).mem, csum := c, skip := false, outcome := some .executed } := rfl

theorem refreshed_byte (s : State) (c : Half) (a : Nat) :
    (State.complete { s.writeChecksum c with csum := c }).byte a = (s.writeChecksum c).byte a := by
  rw [complete_byte]
  exact byte_congr rfl rfl a

/-- Settles O44: REFRESH stores CHECKSUM's sum in the field and in CSUM, the length test is its only check, and no other
command has opcode 5. -/
theorem refreshResult : Obligations.RefreshResult := by
  refine ⟨fun s hlegal => ?_, fun s h148 h158 => ?_,
    onlyWord_encode (i := .refresh) rfl fun j hj => by cases j <;> simp [opcodeOf] at hj ⊢⟩
  · have hexec := exec_refresh_executed ((lenOk_eq_true_iff s).2 hlegal)
    rw [commandBody, checksum_eq_ofNat_bodySum] at hexec
    refine ⟨_, hexec, refreshed_frame s _, ?_, ?_, fun a ha => ?_⟩
    · rw [refreshed_byte, writeChecksum_byte_field (j := 0) s _ (by decide), BitVec.toNat_ofNat]
      omega
    · rw [refreshed_byte, writeChecksum_byte_field (j := 1) s _ (by decide), BitVec.toNat_ofNat]
      omega
    · rw [refreshed_byte, writeChecksum_byte_outside s _ ha]
  · rw [exec_invalidLength (by simp) (by simp) (lenOk_eq_false h148 h158), raiseInvalidLength_eq_update]

/-! The sum by blocks (R183). -/

/-- The exact sum of the 0x28 little-endian words of block `b` of the body. -/
def blockSum (s : State) (b : Nat) : Nat :=
  ((List.range 0x28).map fun j => wordValue s (0x8 + 0x50 * b + 2 * j)).sum

theorem bodySum_eq_sum_blockSum (s : State) : bodySum s = ((List.range 4).map (blockSum s)).sum := by
  have hblocks : List.range 0xA0 = (List.range 4).flatMap fun b => (List.range 0x28).map (0x28 * b + ·) := by decide
  rw [bodySum_eq_sum_wordValue, hblocks, List.map_flatMap, List.flatMap, List.sum_flatten, List.map_map]
  refine congrArg List.sum (List.map_congr_left fun b _ => ?_)
  rw [Function.comp_apply, List.map_map]
  refine congrArg List.sum (List.map_congr_left fun j _ => ?_)
  rw [Function.comp_apply, show 0x8 + 2 * (0x28 * b + j) = 0x8 + 0x50 * b + 2 * j by omega]

/-- The sources of a permutation row are the four blocks in another order (R37). -/
theorem sourceBlocks_perm {s : State} {g : Nat} (h : RowIsPermutation s g) :
    ((List.range 4).map (sourceBlock s g)).Perm (List.range 4) := by
  obtain ⟨hrange, hinj⟩ := h
  have hnodup : ((List.range 4).map (sourceBlock s g)).Nodup := List.nodup_range.map_on fun j hj k hk =>
    hinj j (List.mem_range.1 hj) k (List.mem_range.1 hk)
  have hsubset : (List.range 4).map (sourceBlock s g) ⊆ List.range 4 := by
    intro c hc
    obtain ⟨k, hk, rfl⟩ := List.mem_map.1 hc
    exact List.mem_range.2 (Nat.lt_succ_of_le (hrange k (List.mem_range.1 hk)))
  exact (List.subperm_of_subset hnodup hsubset).perm_of_length_le (by simp)

/-- Two buffers whose body blocks are each other's by a permutation row have the same exact sum. -/
theorem bodySum_eq_of_permuted {s t : State} {g : Nat} (h : RowIsPermutation s g)
    (hbyte : ∀ b < 4, ∀ j < 0x50, t.byte (0x8 + 0x50 * b + j) = s.byte (0x8 + 0x50 * sourceBlock s g b + j)) :
    bodySum t = bodySum s := by
  have hblock : ∀ b ∈ List.range 4, blockSum t b = blockSum s (sourceBlock s g b) := fun b hb =>
    congrArg List.sum <| List.map_congr_left fun j hj => by
      have hb := List.mem_range.1 hb
      have hj := List.mem_range.1 hj
      simp only [wordValue, Nat.add_assoc _ (2 * j), hbyte b hb _ (show 2 * j < 0x50 by omega),
        hbyte b hb _ (show 2 * j + 1 < 0x50 by omega)]
  calc bodySum t = (((List.range 4).map (sourceBlock s g)).map (blockSum s)).sum := by
        rw [bodySum_eq_sum_blockSum, List.map_congr_left hblock, List.map_map]
        rfl
    _ = bodySum s := by rw [((sourceBlocks_perm h).map (blockSum s)).sum_eq, bodySum_eq_sum_blockSum]

/-- Settles O42: the shuffled body has the same blocks in another order, so CHECKSUM finds the same sum before and
after. -/
theorem shuffleKeepsChecksum : Obligations.ShuffleKeepsChecksum := by
  intro s group hlegal hrow
  obtain ⟨hchecksum, -, -⟩ := checksumResult
  obtain ⟨t, ht, hframe, hinside, -⟩ := shuffleResult s group hlegal hrow.1
  have hsum : bodySum t = bodySum s := bodySum_eq_of_permuted hrow hinside
  have hlegal' : t.len = 0x148 ∨ t.len = 0x158 := by
    rw [hframe]
    exact hlegal
  exact ⟨t, ht, by rw [hsum], _, _, hchecksum s hlegal, hchecksum t hlegal', congrArg (BitVec.ofNat 16) hsum⟩

end Sys2Proof.Proofs
end

section
/-!
PROOFS. How ENCRYPT and DECRYPT end (45_transform.md R200 to R211, R220): each ending from its conditions, the tables' faults
as numbers, and that the old SEED plays no part (R212).
-/
namespace Sys2Proof.Proofs
open Sys2Proof Sys2Proof.Machine Sys2Proof.Laws

/-! EC, the selector and the group, back from the numbers that the claims write (R15, R210). -/

theorem ofNat_ecValue (s : State) : BitVec.ofNat 32 (ecValue s) = s.ec := by
  rw [← ec_toNat, BitVec.ofNat_toNat, BitVec.setWidth_eq]

theorem ofNat_svValue (s : State) : BitVec.ofNat 5 (svValue s) = selector s.ec := by
  rw [← selector_ec_toNat, BitVec.ofNat_toNat, BitVec.setWidth_eq]

theorem ofNat_svValue_setWidth (s : State) : BitVec.ofNat 8 (svValue s) = (selector s.ec).setWidth 8 := by
  rw [← selector_ec_toNat, BitVec.ofNat_toNat]

theorem ofNat_groupValue (s : State) : BitVec.ofNat 8 (groupValue s) = s.bpi (selector s.ec).toNat := by
  rw [← bpi_selector_toNat, BitVec.ofNat_toNat, BitVec.setWidth_eq]

theorem ofNat_groupValue_toNat (s : State) : (BitVec.ofNat 8 (groupValue s)).toNat = groupValue s := by
  rw [ofNat_groupValue, bpi_selector_toNat]

theorem svValue_lt (s : State) : svValue s < 32 := Nat.mod_lt _ (by decide)

/-! The endings, each from the conditions it needs; `exec_encrypt_executed` stands above. -/

section endings
variable {s : State} (hlen : s.lenOk = true)
include hlen

theorem exec_encrypt_skipped (henc : s.encFlag = true) : exec .encrypt s = .next s.skipCommand := by
  simp [exec, execEncrypt, hlen, henc]

theorem exec_encrypt_badTableEntry {info : Word} (henc : s.encFlag = false)
    (htables : s.checkEncryptTables (selector s.ec) = some info) :
    exec .encrypt s = .next (s.raise .badTableEntry info) := by
  simp [exec, execEncrypt, hlen, henc, htables]

theorem exec_decrypt_skipped (henc : s.encFlag = false) : exec .decrypt s = .next s.skipCommand := by
  simp [exec, execDecrypt, hlen, henc]

theorem exec_decrypt_badTableEntry {info : Word} (henc : s.encFlag = true)
    (hrow : s.checkRow (selector s.ec).toNat = some info) :
    exec .decrypt s = .next (s.raise .badTableEntry info) := by
  simp [exec, execDecrypt, hlen, henc, hrow]

theorem exec_decrypt_executed (henc : s.encFlag = true) (hrow : s.checkRow (selector s.ec).toNat = none) :
    exec .decrypt s = .next (commandBody .decrypt s).complete := by
  simp [exec, execDecrypt, hlen, henc, hrow, commandBody]

end endings

/-- Settles O46: the heuristic test stands before the tables are looked at. -/
theorem heuristicSkips : Obligations.HeuristicSkips := by
  intro s hlegal
  have hlen := (lenOk_eq_true_iff s).2 hlegal
  exact ⟨fun henc => exec_encrypt_skipped hlen ((encFlag_eq_true_iff s).2 henc),
    fun henc => exec_decrypt_skipped hlen ((encFlag_eq_false_iff s).2 henc)⟩

/-! The table checks as numbers (R211, R231, R239). -/

theorem checkEncryptTables_eq_none_iff_rowInRange (s : State) :
    s.checkEncryptTables (selector s.ec) = none ↔ groupValue s ≤ 31 ∧ RowInRange s (groupValue s) := by
  rw [checkEncryptTables_eq_none_iff, bpi_selector_toNat]
  simp only [bp_toNat, RowInRange]

theorem checkEncryptTables_of_group_le {s : State} (h : groupValue s ≤ 31) :
    s.checkEncryptTables (selector s.ec) = s.checkRow (groupValue s) := by
  rw [State.checkEncryptTables, bpi_selector_toNat, if_neg (Nat.not_lt_of_le h)]

theorem checkEncryptTables_of_lt_group {s : State} (h : 31 < groupValue s) :
    s.checkEncryptTables (selector s.ec) = some (BitVec.ofNat 32 (groupValue s * 0x10000 + 0x100 + svValue s)) := by
  have hgroup : groupValue s < 0x100 := (s.byte _).isLt
  have hsv := svValue_lt s
  rw [State.checkEncryptTables, bpi_selector_toNat, if_pos h, Option.some_inj, ← BitVec.toNat_inj, tableInfo_toNat,
    bpi_selector_toNat, ← ofNat_svValue_setWidth]
  simp only [BitVec.ofNat_eq_ofNat, BitVec.toNat_ofNat]
  omega

/-- Settles O48: ENCRYPT's check reports the BPI entry when it is above 31, and else what `check_row` reports. -/
theorem encryptBadTablesFault : Obligations.EncryptBadTablesFault := by
  intro s hlegal hplain
  have hlen := (lenOk_eq_true_iff s).2 hlegal
  have henc := (encFlag_eq_false_iff s).2 hplain
  refine ⟨fun hgroup => ?_, fun k hk hgroup hbad hfirst => ?_⟩
  · exact exec_encrypt_badTableEntry hlen henc (checkEncryptTables_of_lt_group hgroup)
  · exact exec_encrypt_badTableEntry hlen henc ((checkEncryptTables_of_group_le hgroup).trans
      (checkRow_eq_some_of_first (Nat.lt_succ_of_le hgroup) hk hbad hfirst))

/-- Settles O50: DECRYPT's check is `check_row` of the selector itself, and the selector is below 32. -/
theorem decryptBadRowFaults : Obligations.DecryptBadRowFaults := by
  intro s k hlegal h70 hC0 hk hbad hfirst
  have hrow := checkRow_eq_some_of_first (svValue_lt s) hk hbad hfirst
  rw [← selector_ec_toNat s] at hrow ⊢
  exact exec_decrypt_badTableEntry ((lenOk_eq_true_iff s).2 hlegal) ((encFlag_eq_true_iff s).2 ⟨h70, hC0⟩) hrow

/-! SEED is not read (R212): the operations of the two bodies do not look at the register, and the bodies overwrite it. -/

/-- The state with another word in SEED. -/
def reseed (s : State) (x : Word) : State := { s with seed := x }

section reseed
variable (s : State) (x : Word)

/-! Some proofs below are `(rfl)` in parentheses: `simp` then rewrites with these lemmas step by step and leaves no large
definitional equality for the kernel. -/

theorem reseed_eq_update : reseed s x = { s with seed := x } := rfl

theorem reseed_len : (reseed s x).len = s.len := rfl

theorem ec_reseed : (reseed s x).ec = s.ec := (rfl)

theorem bpi_reseed (k : Nat) : (reseed s x).bpi k = s.bpi k := (rfl)

theorem checksum_reseed : (reseed s x).checksum = s.checksum := checksum_congr fun a => byte_congr rfl rfl a

theorem writeChecksum_reseed (c : Half) : (reseed s x).writeChecksum c = reseed (s.writeChecksum c) x := (rfl)

theorem shuffleBody_reseed (g : Nat) : (reseed s x).shuffleBody g = reseed (s.shuffleBody g) x := (rfl)

theorem cryptRegion_reseed (y : Word) (a b : Nat) :
    (reseed s x).cryptRegion y a b = ((s.cryptRegion y a b).1, reseed (s.cryptRegion y a b).2 x) := (rfl)

theorem cipherPass_reseed (y : Word) :
    (reseed s x).cipherPass y = ((s.cipherPass y).1, reseed (s.cipherPass y).2 x) := by
  by_cases hlen : s.len = 0x158
  · simp only [State.cipherPass, reseed_len, cryptRegion_reseed, hlen, if_true]
  · simp only [State.cipherPass, reseed_len, cryptRegion_reseed, hlen, if_false]

/-- What both bodies do last: they write SEED and SEL, and ENCRYPT's CSUM. -/
theorem reseed_overwritten (c : Half) (y : Word) (sv : BitVec 5) (g : Byte) :
    ({ reseed s x with csum := c, seed := y, selSv := sv, selGroup := g } : State) =
      { s with csum := c, seed := y, selSv := sv, selGroup := g } := rfl

theorem encryptBody_reseed : (reseed s x).encryptBody = s.encryptBody := by
  simp only [State.encryptBody, ec_reseed, bpi_reseed, checksum_reseed, writeChecksum_reseed, shuffleBody_reseed,
    cipherPass_reseed]
  exact reseed_overwritten _ x _ _ _ _

theorem decryptBody_reseed : (reseed s x).decryptBody = s.decryptBody := by
  simp only [State.decryptBody, ec_reseed, cipherPass_reseed, shuffleBody_reseed]
  exact reseed_overwritten _ x _ _ _ _

end reseed

/-- Settles O51: the tests and checks of both commands come out alike, so each run has the same ending; the bodies overwrite
SEED, and the other endings keep it. -/
theorem transformIgnoresOldSeed : Obligations.TransformIgnoresOldSeed := by
  intro i s x hi
  rw [← reseed_eq_update]
  obtain rfl | rfl := hi
  · obtain ⟨t, h⟩ := exec_answers_next .encrypt s
    refine ⟨t, h, ?_⟩
    obtain ⟨hlen, rfl⟩ | ⟨hlen, henc, rfl⟩ | ⟨info, hlen, henc, htables, rfl⟩ | ⟨hlen, henc, htables, rfl⟩ :=
      execEncrypt_cases h
    · exact ⟨by simp, fun _ => ⟨rfl, exec_invalidLength (s := reseed s x) (by simp) (by simp) hlen⟩⟩
    · exact ⟨by simp, fun _ => ⟨rfl, exec_encrypt_skipped (s := reseed s x) hlen henc⟩⟩
    · exact ⟨by simp, fun _ => ⟨rfl, exec_encrypt_badTableEntry (s := reseed s x) hlen henc htables⟩⟩
    · refine ⟨fun _ => ?_, by simp⟩
      rw [exec_encrypt_executed (s := reseed s x) hlen henc htables, commandBody, encryptBody_reseed]
  · obtain ⟨t, h⟩ := exec_answers_next .decrypt s
    refine ⟨t, h, ?_⟩
    obtain ⟨hlen, rfl⟩ | ⟨hlen, henc, rfl⟩ | ⟨info, hlen, henc, hrow, rfl⟩ | ⟨hlen, henc, hrow, rfl⟩ :=
      execDecrypt_cases h
    · exact ⟨by simp, fun _ => ⟨rfl, exec_invalidLength (s := reseed s x) (by simp) (by simp) hlen⟩⟩
    · exact ⟨by simp, fun _ => ⟨rfl, exec_decrypt_skipped (s := reseed s x) hlen henc⟩⟩
    · exact ⟨by simp, fun _ => ⟨rfl, exec_decrypt_badTableEntry (s := reseed s x) hlen henc hrow⟩⟩
    · refine ⟨fun _ => ?_, by simp⟩
      rw [exec_decrypt_executed (s := reseed s x) hlen henc hrow, commandBody, decryptBody_reseed]

end Sys2Proof.Proofs
end

section
/-!
PROOFS. The results of an executed ENCRYPT and DECRYPT, byte by byte (45_transform.md R210 to R212, R220, R221).
-/
namespace Sys2Proof.Proofs
open Sys2Proof Sys2Proof.Machine Sys2Proof.Laws

/-! The tables lie beyond BUF, so a state with the same bytes there has the same rows. -/

theorem sourceBlock_congr_tables {s t : State} (h : ∀ a, 0x158 ≤ a → t.byte a = s.byte a) (g b : Nat) :
    sourceBlock t g b = sourceBlock s g b := by
  rw [sourceBlock, h _ (by omega), sourceBlock]

theorem rowInRange_congr_tables {s t : State} (h : ∀ a, 0x158 ≤ a → t.byte a = s.byte a) {g : Nat}
    (hrow : RowInRange s g) : RowInRange t g :=
  fun k hk => (sourceBlock_congr_tables h g k).trans_le (hrow k hk)

/-! The cipher pass (R210 step 7). -/

theorem cend_eq_of_long {s : State} (h : s.len = 0x158) : s.cend = 0x158 := if_pos h

theorem cend_pairs (s : State) : (s.cend - 0x8) / 2 = if s.len = 0x158 then 0xA8 else 0xA0 := by
  unfold State.cend
  split
  · rfl
  · rfl

theorem cend_even (s : State) : (s.cend - 0x8) % 2 = 0 := by
  unfold State.cend
  split
  · rfl
  · rfl

/-- One LCG step for each pair of the span. -/
theorem cipherPass_fst (s : State) (x : Word) :
    (s.cipherPass x).1 = lcg^[if s.len = 0x158 then 0xA8 else 0xA0] x := by
  obtain ⟨hseed, -⟩ := cipherPass_eq_cryptRegion s x
  rw [hseed, cryptRegion_fst_eq_iterate, cend_pairs]

/-- The keystream index of a byte is its offset from the start of the body; `cipherPass_byte_outside` says the rest. -/
theorem cipherPass_byte_inside (s : State) (x : Word) {k : Nat} (hk : 0x8 + k < s.cend) :
    (s.cipherPass x).2.byte (0x8 + k) = s.byte (0x8 + k) ^^^ keystreamByte x k := by
  obtain ⟨-, hbyte⟩ := cipherPass_eq_cryptRegion s x
  have hbuf := (cend_bounds s).2
  rw [hbyte, cryptRegion_byte_inside s x hbuf (cend_even s) (by omega)]

/-! The plaintext that ENCRYPT ciphers: the checksum field written, then the body shuffled (R210 steps 2 and 6). -/

section shuffledPlaintext
variable {s : State} {g : Byte} (hrow : RowInRange s g.toNat)
include hrow

theorem writeChecksum_rowInRange (c : Half) : RowInRange (s.writeChecksum c) g.toNat :=
  rowInRange_congr_tables (fun _ _ => writeChecksum_byte_outside s c (by omega)) hrow

theorem shuffledPlaintext_byte_body {b j : Nat} (hb : b < 4) (hj : j < 0x50) :
    (shuffledPlaintext s g).byte (0x8 + 0x50 * b + j) = s.byte (0x8 + 0x50 * sourceBlock s g.toNat b + j) := by
  have hsource := sourceBlock_congr_tables (s := s)
    (fun _ _ => writeChecksum_byte_outside s s.checksum (by omega)) g.toNat b
  rw [shuffledPlaintext, shuffleBody_byte_inside (writeChecksum_rowInRange hrow _) hb hj, hsource,
    writeChecksum_byte_outside s _ (by omega)]

theorem shuffledPlaintext_byte_outside {a : Nat} (ha : a < 0x8 ∨ 0x148 ≤ a) :
    (shuffledPlaintext s g).byte a = (s.writeChecksum s.checksum).byte a := by
  rw [shuffledPlaintext,
    shuffleBody_byte_outside (checkRow_eq_none_of_rowInRange (writeChecksum_rowInRange hrow _)) ha]

end shuffledPlaintext

/-! ENCRYPT. -/

theorem encrypt_executed_frame (s : State) :
    (commandBody .encrypt s).complete =
      { s with
        mem := (commandBody .encrypt s).complete.mem, csum := BitVec.ofNat 16 (bodySum s)
        seed := lcg^[if s.len = 0x158 then 0xA8 else 0xA0] (BitVec.ofNat 32 (ecValue s))
        selSv := BitVec.ofNat 5 (svValue s), selGroup := BitVec.ofNat 8 (groupValue s)
        skip := false, outcome := some .executed } := by
  have hseed : s.encryptBody.seed = lcg^[if s.len = 0x158 then 0xA8 else 0xA0] s.ec :=
    cipherPass_fst (shuffledPlaintext s (s.bpi (selector s.ec).toNat)) s.ec
  rw [ofNat_ecValue, ofNat_svValue, ofNat_groupValue, ← checksum_eq_ofNat_bodySum, ← hseed, commandBody]
  conv_lhs => rw [encryptBody_frame]
  rfl

theorem encrypt_executed_byte (s : State) (a : Nat) :
    (commandBody .encrypt s).complete.byte a =
      ((shuffledPlaintext s (BitVec.ofNat 8 (groupValue s))).cipherPass (BitVec.ofNat 32 (ecValue s))).2.byte a := by
  rw [complete_byte, ofNat_groupValue, ofNat_ecValue]
  exact byte_congr rfl (by simp [commandBody]) a

theorem encrypt_executed_byte_field {s : State} (hrow : RowInRange s (BitVec.ofNat 8 (groupValue s)).toNat) {j : Nat}
    (hj : j < 2) :
    ((commandBody .encrypt s).complete.byte (0x6 + j)).toNat = bodySum s % 0x10000 / 2 ^ (8 * j) % 0x100 := by
  rw [encrypt_executed_byte, cipherPass_byte_outside _ _ (by omega), shuffledPlaintext_byte_outside hrow (by omega),
    writeChecksum_byte_field s _ hj, checksum_eq_ofNat_bodySum, BitVec.toNat_ofNat]

/-- Settles O47: the legal row passes ENCRYPT's checks, and each byte comes through the cipher pass, the shuffle and the
checksum field as far as these reach. -/
theorem encryptResult : Obligations.EncryptResult := by
  intro s hlegal hplain hgroup hrow
  have hlen := (lenOk_eq_true_iff s).2 hlegal
  have htables := (checkEncryptTables_eq_none_iff_rowInRange s).2 ⟨hgroup, hrow⟩
  have hcend : (shuffledPlaintext s (BitVec.ofNat 8 (groupValue s))).cend = s.cend := cend_congr rfl
  have hbounds := cend_bounds s
  rw [← ofNat_groupValue_toNat s] at hrow
  refine ⟨_, exec_encrypt_executed hlen ((encFlag_eq_false_iff s).2 hplain) htables, encrypt_executed_frame s, ?_, ?_,
    fun b hb j hj => ?_, fun hlong j hj => ?_, fun a ha => ?_⟩
  · rw [encrypt_executed_byte_field hrow (j := 0) (by decide)]
    omega
  · rw [encrypt_executed_byte_field hrow (j := 1) (by decide)]
    omega
  · rw [encrypt_executed_byte, Nat.add_assoc, cipherPass_byte_inside _ _ (by omega), ← Nat.add_assoc,
      shuffledPlaintext_byte_body hrow hb hj, ofNat_groupValue_toNat]
  · have hspan := cend_eq_of_long hlong
    rw [encrypt_executed_byte, show 0x148 + j = 0x8 + (0x140 + j) by omega, cipherPass_byte_inside _ _ (by omega),
      shuffledPlaintext_byte_outside hrow (by omega), writeChecksum_byte_outside s _ (by omega)]
  · rw [len_toNat_eq_cend hlen] at ha
    rw [encrypt_executed_byte, cipherPass_byte_outside _ _ (by omega), shuffledPlaintext_byte_outside hrow (by omega),
      writeChecksum_byte_outside s _ (by omega)]

/-! DECRYPT. -/

theorem decrypt_executed_frame (s : State) :
    (commandBody .decrypt s).complete =
      { s with
        mem := (commandBody .decrypt s).complete.mem
        seed := lcg^[if s.len = 0x158 then 0xA8 else 0xA0] (BitVec.ofNat 32 (ecValue s))
        selSv := BitVec.ofNat 5 (svValue s), selGroup := BitVec.ofNat 8 (svValue s)
        skip := false, outcome := some .executed } := by
  have hseed : s.decryptBody.seed = lcg^[if s.len = 0x158 then 0xA8 else 0xA0] s.ec := cipherPass_fst s s.ec
  rw [ofNat_ecValue, ofNat_svValue, ofNat_svValue_setWidth, ← hseed, commandBody]
  conv_lhs => rw [decryptBody_frame]
  rfl

theorem decrypt_executed_byte (s : State) (a : Nat) :
    (commandBody .decrypt s).complete.byte a =
      ((s.cipherPass (BitVec.ofNat 32 (ecValue s))).2.shuffleBody (svValue s)).byte a := by
  rw [complete_byte, ← selector_ec_toNat, ofNat_ecValue]
  exact byte_congr rfl (by simp [commandBody]) a

/-- Settles O49: the legal row passes DECRYPT's check, and each byte comes through the shuffle and the cipher pass as far as
these reach, so that the keystream index is that of the source block. -/
theorem decryptResult : Obligations.DecryptResult := by
  intro s hlegal h70 hC0 hrow
  have hlen := (lenOk_eq_true_iff s).2 hlegal
  have hcheck := checkRow_eq_none_of_rowInRange hrow
  rw [← selector_ec_toNat] at hcheck
  have hbounds := cend_bounds s
  have htables (a : Nat) (ha : 0x158 ≤ a) : (s.cipherPass (BitVec.ofNat 32 (ecValue s))).2.byte a = s.byte a :=
    cipherPass_byte_outside s _ (by omega)
  have hrow' := rowInRange_congr_tables htables hrow
  refine ⟨_, exec_decrypt_executed hlen ((encFlag_eq_true_iff s).2 ⟨h70, hC0⟩) hcheck, decrypt_executed_frame s,
    fun b hb j hj => ?_, fun hlong j hj => ?_, fun a ha => ?_⟩
  · have hsource := hrow b hb
    rw [decrypt_executed_byte, shuffleBody_byte_inside hrow' hb hj, sourceBlock_congr_tables htables, Nat.add_assoc,
      cipherPass_byte_inside _ _ (by omega)]
  · have hspan := cend_eq_of_long hlong
    rw [decrypt_executed_byte, shuffleBody_byte_outside (checkRow_eq_none_of_rowInRange hrow') (by omega),
      show 0x148 + j = 0x8 + (0x140 + j) by omega, cipherPass_byte_inside _ _ (by omega)]
  · rw [len_toNat_eq_cend hlen] at ha
    rw [decrypt_executed_byte, shuffleBody_byte_outside (checkRow_eq_none_of_rowInRange hrow') (by omega),
      cipherPass_byte_outside _ _ ha]

end Sys2Proof.Proofs
end

section
/-!
PROOFS. Laws of the record transform (45_transform.md R225 to R227): the checksum that ENCRYPT writes, the second command,
and the round trip.
-/
namespace Sys2Proof.Proofs
open Sys2Proof Sys2Proof.Machine Sys2Proof.Laws

/-! An executed command from its outcome. -/

theorem exec_len {i : Instr} {s t : State} (h : exec i s = .next t) : t.len = s.len := by
  obtain ⟨-, -, -, -, hlen, -⟩ := onlyNamedWritersChangeRegisters i s t h
  exact hlen

/-- A buffer command executes only with a legal LEN (R100, R233). -/
theorem legal_of_executed {i : Instr} {s t : State} (hnop : i ≠ .nop) (hadvance : i ≠ .advance)
    (h : exec i s = .next t) (hexecuted : t.outcome = some .executed) : s.len = 0x148 ∨ s.len = 0x158 := by
  rw [← lenOk_eq_true_iff]
  by_contra hlen
  rw [exec_invalidLength hnop hadvance (Bool.eq_false_of_not_eq_true hlen)] at h
  cases h
  simp at hexecuted

/-- ENCRYPT executes only under the premises of its result (R210, R211). -/
theorem premises_of_encrypt_executed {s t : State} (h : exec .encrypt s = .next t)
    (hexecuted : t.outcome = some .executed) :
    (s.byte 0x70 = 0 ∨ s.byte 0xC0 = 0) ∧ groupValue s ≤ 31 ∧ RowInRange s (groupValue s) := by
  obtain ⟨-, rfl⟩ | ⟨-, -, rfl⟩ | ⟨info, -, -, -, rfl⟩ | ⟨-, henc, htables, rfl⟩ := execEncrypt_cases h
  · simp at hexecuted
  · simp at hexecuted
  · simp at hexecuted
  · exact ⟨(encFlag_eq_false_iff s).1 henc, (checkEncryptTables_eq_none_iff_rowInRange s).1 htables⟩

/-- Settles O52: ENCRYPT's result names the old body's sum for CSUM and for the field, and SHUFFLE by the same row leaves
the same blocks in another order. -/
theorem encryptChecksumIsOfPlaintext : Obligations.EncryptChecksumIsOfPlaintext := by
  intro s t h hexecuted
  have hlegal := legal_of_executed (by simp) (by simp) h hexecuted
  obtain ⟨hplain, hgroup, hrow⟩ := premises_of_encrypt_executed h hexecuted
  obtain ⟨t', h', hframe, h6, h7, -⟩ := encryptResult s hlegal hplain hgroup hrow
  obtain rfl := Host.Outcome.next.inj (h.symm.trans h')
  have hcsum : t.csum.toNat = bodySum s % 0x10000 := by
    rw [hframe]
    exact BitVec.toNat_ofNat _ _
  refine ⟨hcsum, by omega, fun hperm => ?_⟩
  rw [← ofNat_groupValue_toNat s] at hrow hperm
  obtain ⟨u, hu, -, hblocks, -⟩ := shuffleResult s _ hlegal hrow
  exact ⟨u, hu, by rw [hcsum, bodySum_eq_of_permuted hperm hblocks]⟩

/-- Settles O53: an executed command leaves LEN legal, so for the second one only the heuristic is left to ask. -/
theorem secondTransformIsSkipped : Obligations.SecondTransformIsSkipped := by
  refine fun s t => ⟨fun h hexecuted h70 hC0 => ?_, fun h hexecuted hplain => ?_⟩
  · have hlegal := legal_of_executed (by simp) (by simp) h hexecuted
    rw [← exec_len h] at hlegal
    exact (heuristicSkips t hlegal).1 ⟨h70, hC0⟩
  · have hlegal := legal_of_executed (by simp) (by simp) h hexecuted
    rw [← exec_len h] at hlegal
    exact (heuristicSkips t hlegal).2 hplain

/-! The round trip (R225). -/

/-- A legal LEN and premises (2) to (4) of R225, on the state before ENCRYPT. -/
structure RoundTripPremises (s : State) : Prop where
  legal : s.len = 0x148 ∨ s.len = 0x158
  plain : s.byte 0x70 = 0 ∨ s.byte 0xC0 = 0
  group : groupValue s ≤ 31
  groupRow : RowInRange s (groupValue s)
  selectorRow : RowInRange s (svValue s)
  cancel : RowsCancel s (groupValue s) (svValue s)

/-- The host's script is no part of the block. -/
theorem byte_with_script (s : State) (script : List Transaction) (a : Nat) :
    State.byte { s with script := script } a = s.byte a := byte_congr rfl rfl a

theorem bodySum_with_script (s : State) (script : List Transaction) :
    bodySum { s with script := script } = bodySum s := by
  simp only [bodySum, byte_with_script]

theorem ecValue_congr {s t : State} (h : ∀ a < 6, t.byte a = s.byte a) : ecValue t = ecValue s := by
  rw [ecValue, h 0 (by decide), h 1 (by decide), h 2 (by decide), h 3 (by decide), ecValue]

/-- DECRYPT of a state `t'` with ENCRYPT's bytes and length: EC and the tables are the old ones, so the keystream cancels
block by block, and block b of the result is block p(q(b)) = b of the old body. -/
theorem decrypt_restores {s t t' : State} (hs : RoundTripPremises s) (ht : exec .encrypt s = .next t)
    (hbytes : ∀ a, t'.byte a = t.byte a) (hlen : t'.len = t.len) (h70 : t.byte 0x70 ≠ 0) (hC0 : t.byte 0xC0 ≠ 0) :
    ∃ u, exec .decrypt t' = .next u ∧ u.outcome = some .executed ∧ (∀ a < 8, u.byte a = t.byte a) ∧
      ∀ a, a < 6 ∨ 8 ≤ a → u.byte a = s.byte a := by
  obtain ⟨hlegal, hplain, hgroup, hrow, hrow', hcancel⟩ := hs
  obtain ⟨t₀, ht₀, -, -, -, hbody, hextra, houtside⟩ := encryptResult s hlegal hplain hgroup hrow
  obtain rfl := Host.Outcome.next.inj (ht.symm.trans ht₀)
  have hlen : t'.len = s.len := hlen.trans (exec_len ht)
  have hbuf : s.len.toNat ≤ 0x158 :=
    (len_toNat_eq_cend ((lenOk_eq_true_iff s).2 hlegal)).trans_le (cend_bounds s).2
  have hec : ecValue t' = ecValue s := ecValue_congr fun a ha => (hbytes a).trans (houtside a (.inl ha))
  have hsv : svValue t' = svValue s := by rw [svValue, hec, svValue]
  have htables (a : Nat) (ha : 0x158 ≤ a) : t'.byte a = s.byte a := (hbytes a).trans (houtside a (by omega))
  rw [← hbytes] at h70 hC0
  obtain ⟨u, hu, hframe', hbody', hextra', houtside'⟩ := decryptResult t' (by rwa [hlen]) h70 hC0
    (by rw [hsv]; exact rowInRange_congr_tables htables hrow')
  rw [hlen] at hextra' houtside'
  simp only [hec, hsv, hbytes, sourceBlock_congr_tables htables] at hbody' hextra' houtside'
  refine ⟨u, hu, by rw [hframe'], fun a ha => houtside' a (.inl ha), fun a ha => ?_⟩
  by_cases hout : a < 8 ∨ s.len.toNat ≤ a
  · rw [houtside' a hout, houtside a (by omega)]
  · by_cases hin : a < 8 ∨ 0x148 ≤ a
    · have hlong : s.len = 0x158 := hlegal.resolve_left fun hshort => by
        have hlen148 : s.len.toNat = 0x148 := by rw [hshort]; rfl
        omega
      obtain ⟨j, rfl⟩ := Nat.exists_eq_add_of_le (show 0x148 ≤ a by omega)
      have hj : j < 0x10 := by omega
      rw [hextra' hlong j hj, hextra hlong j hj, BitVec.xor_assoc, BitVec.xor_self, BitVec.xor_zero]
    · obtain ⟨b, hb, j, hj, rfl⟩ := exists_block_offset hin
      rw [hbody' b hb j hj, hbody _ (Nat.lt_succ_of_le (hrow' b hb)) j hj, hcancel b hb, BitVec.xor_assoc,
        BitVec.xor_self, BitVec.xor_zero]

/-- When all bytes but the checksum field's are equal, the buffers are equal exactly when the fields' numbers are. -/
theorem bytes_eq_iff_field_eq {s u : State} (h : ∀ a, a < 6 ∨ 8 ≤ a → u.byte a = s.byte a) :
    (∀ a, u.byte a = s.byte a) ↔ wordValue s 6 = wordValue u 6 := by
  constructor
  · intro hall
    rw [wordValue, wordValue, hall, hall]
  · intro hfield a
    by_cases ha : a < 6 ∨ 8 ≤ a
    · exact h a ha
    · have hlow := (s.byte 6).isLt
      have hlow' := (u.byte 6).isLt
      simp only [wordValue, Nat.reduceAdd] at hfield
      obtain rfl | rfl : a = 6 ∨ a = 7 := by omega
      · exact BitVec.eq_of_toNat_eq (by omega)
      · exact BitVec.eq_of_toNat_eq (by omega)

/-- An executed command leaves SKIP 0, and FAULT and the host's script as they are (R102). -/
theorem fault_skip_script_of_executed {i : Instr} {s t : State} (h : exec i s = .next t)
    (hexecuted : t.outcome = some .executed) :
    t.fault = s.fault ∧ t.skip = false ∧ t.script = s.script := by
  cases exec_ending h with
  | faulted f info => simp at hexecuted
  | skipped hskip => simp at hexecuted
  | executed => simp

/-- Settles O54: the first CMD write runs ENCRYPT on the state without that transaction, the second DECRYPT on what it left;
the checksum field is the one that ENCRYPT wrote. -/
theorem encryptDecryptRoundTrip : Obligations.EncryptDecryptRoundTrip := by
  intro s rest hs hf hlegal hplain hgroup hrow hrow' hcancel
  have hstep := stepRunsDecodedCommand s _ _ .encrypt hs hf (by decide)
  have hpremises : RoundTripPremises { s with script := .write (slotAt 0x300) 0x00000007 :: rest } :=
    ⟨hlegal, hplain, hgroup, hrow, hrow', hcancel⟩
  obtain ⟨t, ht, hframe, h6, h7, -⟩ := encryptResult _ hpremises.legal hpremises.plain
    hpremises.group hpremises.groupRow
  obtain ⟨hfault, hskip, hscript⟩ := fault_skip_script_of_executed ht (by rw [hframe])
  refine ⟨t, hstep.trans ht, hfault.trans hf, hskip, fun h70 hC0 => ?_⟩
  have hstep' := stepRunsDecodedCommand t _ _ .decrypt hscript (hfault.trans hf) (by decide)
  obtain ⟨u, hu, hexecuted, hfield, hrestored⟩ :=
    decrypt_restores hpremises ht (byte_with_script t rest) rfl h70 hC0
  obtain ⟨hfault', hskip', hscript'⟩ := fault_skip_script_of_executed hu hexecuted
  simp only [byte_with_script] at hrestored
  have hsum : wordValue u 6 = bodySum s % 0x10000 := by
    rw [bodySum_with_script] at h6 h7
    rw [wordValue, hfield 6 (by decide), hfield 7 (by decide), h6, h7]
    omega
  refine ⟨u, hstep'.trans hu, hfault'.trans (hfault.trans hf), hskip', hscript', hrestored, hsum, ?_⟩
  rw [← hsum]
  exact bytes_eq_iff_field_eq hrestored

end Sys2Proof.Proofs
end

section
/-!
PROOFS. The faults that a CMD word, LEN and CRYPT's operands raise (60_exceptions.md R232 to R235).
-/
namespace Sys2Proof.Proofs
open Sys2Proof Sys2Proof.Machine Sys2Proof.Laws

/-! Illegal words (R84, R86): a word that decodes has its command's opcode, and zero in its must-be-zero fields. -/

theorem isIllegal_iff_decode (w : Word) : IsIllegal w ↔ ∃ why, decode w = .illegal why := by
  cases hw : decode w <;> simp [IsIllegal, hw]

theorem opcode_of_decode {w : Word} {i : Instr} (h : decode w = .command i) : w.toNat % 16 = (opcodeOf i).toNat := by
  obtain ⟨-, rfl⟩ := (decode_eq_command_iff_encode w i).1 h
  have hop : opField (encode i) = opcodeOf i := enc_op _ _ _
  rw [← hop, opField, BitVec.extractLsb'_toNat, Nat.shiftRight_zero]

/-- The must-be-zero fields of a command's row: its mask without the opcode (R84). -/
def mustBeZero (i : Instr) : Word :=
  match i with
  | .crypt _ _ => 0xFC0000F0
  | .shuffle _ => 0xFFFFE0F0
  | .nop | .advance | .checksum | .refresh | .encrypt | .decrypt => 0xFFFFFFF0

theorem opcodeTable_mustBeZero {r : OpcodeRow} (hr : r ∈ opcodeTable) (w : Word) :
    r.mask &&& 0xFFFFFFF0 = mustBeZero (r.command w) ∧ r.pattern &&& 0xFFFFFFF0 = 0 := by
  simp only [opcodeTable, List.mem_cons, List.not_mem_nil, or_false] at hr
  obtain rfl | rfl | rfl | rfl | rfl | rfl | rfl | rfl := hr <;> exact ⟨rfl, rfl⟩

theorem mustBeZero_of_decode {w : Word} {i : Instr} (h : decode w = .command i) : w &&& mustBeZero i = 0 := by
  obtain ⟨r, hr, haccepts, rfl⟩ := (decode_eq_command_iff_row w i).1 h
  obtain ⟨hmask, hpattern⟩ := opcodeTable_mustBeZero hr w
  have hmatch : w &&& r.mask = r.pattern := by simpa [OpcodeRow.accepts] using haccepts
  rw [← hmask, ← BitVec.and_assoc, hmatch, hpattern]

theorem step_illegal {s : State} {w : Word} {rest : List Transaction} (hs : s.script = .write (slotAt 0x300) w :: rest)
    (hf : s.fault = 0) (hw : IsIllegal w) :
    step s = .next { s with script := rest, fault := 1, finfo := w, outcome := some .faulted } := by
  obtain ⟨why, hwhy⟩ := (isIllegal_iff_decode w).1 hw
  rw [step_cons hs, transact_cmd, issue_illegal (s := { s with script := rest }) hf hwhy]
  rfl

theorem mustBeZero_eq_by_opcode (i : Instr) :
    mustBeZero i =
      if (opcodeOf i).toNat = 2 then 0xFC0000F0 else if (opcodeOf i).toNat = 3 then 0xFFFFE0F0 else 0xFFFFFFF0 := by
  cases i <;> rfl

/-- Settles O5: had the word a command, its opcode would be below 8 and the must-be-zero fields of its row would be zero. -/
theorem illegalWordsFault : Obligations.IllegalWordsFault := by
  intro s w rest hs hf hkind
  refine step_illegal hs hf fun i hi => ?_
  have hassigned : w.toNat % 16 < 8 := by
    rw [opcode_of_decode hi]
    cases i <;> simp [opcodeOf]
  have hzero := mustBeZero_of_decode hi
  rw [mustBeZero_eq_by_opcode, ← opcode_of_decode hi] at hzero
  obtain hunassigned | ⟨hop, hfield⟩ | ⟨hop, hfield⟩ | ⟨hop, hfield⟩ := hkind
  · omega
  · rw [if_pos hop] at hzero
    exact hfield hzero
  · rw [if_neg (by omega), if_pos hop] at hzero
    exact hfield hzero
  · have hplain : w.toNat % 16 ≠ 2 ∧ w.toNat % 16 ≠ 3 := by
      constructor <;> intro h <;> simp [h] at hop
    rw [if_neg hplain.1, if_neg hplain.2] at hzero
    exact hfield hzero

/-! The checks of LEN and of CRYPT's operands, in the order of R103. -/

/-- Settles O31: the length test is the first check of every buffer command. -/
theorem illegalLengthFaults : Obligations.IllegalLengthFaults := by
  intro i s hnop hadvance h148 h158
  rw [exec_invalidLength hnop hadvance (lenOk_eq_false h148 h158), raiseInvalidLength_eq_update]

theorem rangeInfo_toNat (start stop : Half) :
    (rangeInfo start stop).toNat = stop.toNat * 0x10000 + start.toNat := append_toNat stop start

theorem rangeInfo_eq_ofNat (start stop : Half) :
    rangeInfo start stop = BitVec.ofNat 32 (stop.toNat * 0x10000 + start.toNat) := by
  rw [← rangeInfo_toNat, BitVec.ofNat_toNat, BitVec.setWidth_eq]

theorem exec_crypt_indexOutOfRange {s : State} {start stop : Half} (hlen : s.lenOk = true)
    (hrange : stop < start ∨ s.len < stop) :
    exec (.crypt start stop) s = .next (s.raise .indexOutOfRange (rangeInfo start stop)) := by
  simp [exec, execCrypt, hlen, hrange]

theorem exec_crypt_oddRegion {s : State} {start stop : Half} (hlen : s.lenOk = true) (hstart : start ≤ stop)
    (hstop : stop ≤ s.len) (hodd : (stop.toNat - start.toNat) % 2 = 1) :
    exec (.crypt start stop) s = .next (s.raise .oddRegion (rangeInfo start stop)) := by
  have hrange : ¬ (stop < start ∨ s.len < stop) := by simp [hstart, hstop]
  simp [exec, execCrypt, hlen, hrange, hodd]

/-- Settles O36: with a legal LEN the range test comes first, and only a region that passes it is tested for oddness. -/
theorem cryptRegionFaults : Obligations.CryptRegionFaults := by
  intro s start stop hlegal
  have hlen := (lenOk_eq_true_iff s).2 hlegal
  rw [← rangeInfo_eq_ofNat]
  exact ⟨fun hrange => exec_crypt_indexOutOfRange hlen hrange,
    fun hstart hstop hodd => exec_crypt_oddRegion hlen hstart hstop hodd⟩

end Sys2Proof.Proofs
end

section
/-!
PROOFS. The invariant of the block (`Invariant`): what each fault records fits its code (60_exceptions.md R230, R231),
storage stays canonical and SEL.GROUP a group (10_state.md R26), so every step keeps it.
-/
namespace Sys2Proof.Proofs
open Sys2Proof Sys2Proof.Machine Sys2Proof.Laws

/-! The record of each fault, from the check that raises it. -/

theorem faultRecord_illegalCommand {w : Word} (hw : IsIllegal w) : FaultRecord FaultCode.illegalCommand.code w :=
  .inr (.inl ⟨rfl, hw⟩)

theorem lengthInfo_injective : Function.Injective lengthInfo := fun m n h =>
  BitVec.eq_of_toNat_eq ((halfWord_toNat m).symm.trans ((congrArg BitVec.toNat h).trans (halfWord_toNat n)))

theorem faultRecord_invalidLength {s : State} (hlen : s.lenOk = false) :
    FaultRecord FaultCode.invalidLength.code (lengthInfo s.len) := by
  rw [← Bool.not_eq_true, lenOk_eq_true_iff, not_or] at hlen
  obtain ⟨h148, h158⟩ := hlen
  exact .inr (.inr (.inl ⟨rfl, (halfWord_toNat s.len).trans_lt s.len.isLt, lengthInfo_injective.ne h148,
    lengthInfo_injective.ne h158⟩))

theorem faultRecord_indexOutOfRange {s : State} {start stop : Half} (hlen : s.lenOk = true)
    (hwf : (Instr.crypt start stop).wellFormed = true) (hrange : stop < start ∨ s.len < stop) :
    FaultRecord FaultCode.indexOutOfRange.code (rangeInfo start stop) := by
  obtain ⟨hstart, hstop⟩ : start.toNat < 0x200 ∧ stop.toNat < 0x200 := by simpa [Instr.wellFormed] using hwf
  have hlegal : 0x148 ≤ s.len.toNat := by rcases (lenOk_eq_true_iff s).1 hlen with h | h <;> simp [h]
  exact .inr (.inr (.inr (.inl
    ⟨start.toNat, stop.toNat, rfl, hstart, hstop, hrange.imp_right hlegal.trans_lt, rangeInfo_toNat start stop⟩)))

theorem faultRecord_oddRegion {s : State} {start stop : Half} (hlen : s.lenOk = true) (hstart : start ≤ stop)
    (hstop : stop ≤ s.len) (hodd : (stop.toNat - start.toNat) % 2 ≠ 0) :
    FaultRecord FaultCode.oddRegion.code (rangeInfo start stop) := by
  have hlegal : s.len.toNat ≤ 0x158 := by rcases (lenOk_eq_true_iff s).1 hlen with h | h <;> simp [h]
  exact .inr (.inr (.inr (.inr (.inl
    ⟨start.toNat, stop.toNat, rfl, hstart, hstop.trans hlegal, Nat.mod_two_ne_zero.1 hodd,
      rangeInfo_toNat start stop⟩))))

theorem faultRecord_of_checkRow {s : State} {g : Nat} {info : Word} (hg : g < 32) (hrow : s.checkRow g = some info) :
    FaultRecord FaultCode.badTableEntry.code info := by
  obtain ⟨k, hk, hbad, -, rfl⟩ := checkRow_eq_some hrow
  refine .inr (.inr (.inr (.inr (.inr (.inl ⟨(s.bp (4 * g + k)).toNat, 4 * g + k, rfl, hbad, (s.bp _).isLt,
    by omega, ?_⟩)))))
  rw [tableInfo_toNat]
  simp only [BitVec.ofNat_eq_ofNat, BitVec.toNat_ofNat]
  omega

theorem faultRecord_of_checkEncryptTables {s : State} {info : Word}
    (htables : s.checkEncryptTables (selector s.ec) = some info) :
    FaultRecord FaultCode.badTableEntry.code info := by
  by_cases hgroup : groupValue s ≤ 31
  · rw [checkEncryptTables_of_group_le hgroup] at htables
    exact faultRecord_of_checkRow (Nat.lt_succ_of_le hgroup) htables
  · have hbad := Nat.lt_of_not_le hgroup
    have hvalue : groupValue s < 0x100 := (s.byte _).isLt
    have hsv := svValue_lt s
    rw [checkEncryptTables_of_lt_group hbad] at htables
    obtain rfl := Option.some.inj htables
    refine .inr (.inr (.inr (.inr (.inr (.inr ⟨groupValue s, svValue s, rfl, hbad, hvalue, hsv, ?_⟩)))))
    rw [BitVec.toNat_ofNat]
    omega

/-! The endings of a command, and the body of an executed one. -/

theorem invariant_raise {s : State} (hs : Invariant s) {f : FaultCode} {info : Word} (hrecord : FaultRecord f.code info) :
    Invariant (s.raise f info) := ⟨hs.storage, hrecord, hs.group⟩

theorem invariant_skipCommand {s : State} (hs : Invariant s) : Invariant s.skipCommand :=
  ⟨hs.storage, hs.fault, hs.group⟩

theorem commandBody_wf (i : Instr) {s : State} (h : Memory.wf s.mem) : Memory.wf (commandBody i s).mem := by
  cases i <;> simp only [commandBody]
  case nop | advance | checksum => exact h
  case crypt start stop => exact cryptRegion_wf h _ _ _
  case shuffle group => exact shuffleBody_wf h _
  case refresh => exact writeChecksum_wf h _
  case encrypt => exact encryptBody_wf h
  case decrypt => exact decryptBody_wf h

/-- A body writes neither FAULT nor FINFO, and stores in canonical form; SEL.GROUP is left to show. -/
theorem invariant_executed {s : State} (hs : Invariant s) (i : Instr)
    (hgroup : (commandBody i s).selGroup.toNat < 32) : Invariant (commandBody i s).complete :=
  ⟨commandBody_wf i hs.storage, by simpa using hs.fault, hgroup⟩

/-- Only ENCRYPT and DECRYPT write SEL (R26). -/
theorem invariant_executed_of_sel_kept {s : State} (hs : Invariant s) (i : Instr) (hencrypt : i ≠ .encrypt)
    (hdecrypt : i ≠ .decrypt) : Invariant (commandBody i s).complete := by
  have hkept : (commandBody i s).selGroup = s.selGroup := by
    by_contra hne
    exact (commandBody_sel_writers i s fun heq => hne (Prod.mk.inj heq).2).elim hencrypt hdecrypt
  exact invariant_executed hs i (hkept ▸ hs.group)

/-- ENCRYPT writes to SEL.GROUP an entry of BPI that it has checked (R211). -/
theorem encryptBody_selGroup_lt {s : State} (htables : s.checkEncryptTables (selector s.ec) = none) :
    s.encryptBody.selGroup.toNat < 32 := by
  rw [encryptBody_selGroup]
  exact Nat.lt_succ_of_le ((checkEncryptTables_eq_none_iff s _).1 htables).1

/-- DECRYPT writes to SEL.GROUP the selector, five bits (R221). -/
theorem decryptBody_selGroup_lt (s : State) : s.decryptBody.selGroup.toNat < 32 := by
  rw [decryptBody_selGroup, BitVec.toNat_setWidth_of_le (by decide)]
  exact (selector s.ec).isLt

/-! Every step. -/

/-- Command by command: a fault records what its check found, and the rest of what a command writes keeps the invariant. -/
theorem exec_keeps_invariant {i : Instr} {s t : State} (hwf : i.wellFormed = true) (hs : Invariant s)
    (h : exec i s = .next t) : Invariant t := by
  cases i with
  | nop =>
    obtain rfl := execNop_cases h
    exact invariant_executed_of_sel_kept hs .nop nofun nofun
  | advance =>
    obtain rfl := execAdvance_cases h
    exact invariant_executed_of_sel_kept hs .advance nofun nofun
  | crypt start stop =>
    obtain ⟨hlen, rfl⟩ | ⟨hlen, hrange, rfl⟩ | ⟨hlen, hstart, hstop, hodd, rfl⟩ | ⟨-, -, -, -, rfl⟩ :=
      execCrypt_cases h
    · exact invariant_raise hs (faultRecord_invalidLength hlen)
    · exact invariant_raise hs (faultRecord_indexOutOfRange hlen hwf hrange)
    · exact invariant_raise hs (faultRecord_oddRegion hlen hstart hstop hodd)
    · exact invariant_executed_of_sel_kept hs (.crypt start stop) nofun nofun
  | shuffle group =>
    have hgroup : group.toNat < 32 := by simpa [Instr.wellFormed] using hwf
    obtain ⟨hlen, rfl⟩ | ⟨info, -, hrow, rfl⟩ | ⟨-, -, rfl⟩ := execShuffle_cases h
    · exact invariant_raise hs (faultRecord_invalidLength hlen)
    · exact invariant_raise hs (faultRecord_of_checkRow hgroup hrow)
    · exact invariant_executed_of_sel_kept hs (.shuffle group) nofun nofun
  | checksum =>
    obtain ⟨hlen, rfl⟩ | ⟨-, rfl⟩ := execChecksum_cases h
    · exact invariant_raise hs (faultRecord_invalidLength hlen)
    · exact invariant_executed_of_sel_kept hs .checksum nofun nofun
  | refresh =>
    obtain ⟨hlen, rfl⟩ | ⟨-, rfl⟩ := execRefresh_cases h
    · exact invariant_raise hs (faultRecord_invalidLength hlen)
    · exact invariant_executed_of_sel_kept hs .refresh nofun nofun
  | encrypt =>
    obtain ⟨hlen, rfl⟩ | ⟨-, -, rfl⟩ | ⟨info, -, -, htables, rfl⟩ | ⟨-, -, htables, rfl⟩ := execEncrypt_cases h
    · exact invariant_raise hs (faultRecord_invalidLength hlen)
    · exact invariant_skipCommand hs
    · exact invariant_raise hs (faultRecord_of_checkEncryptTables htables)
    · exact invariant_executed hs .encrypt (encryptBody_selGroup_lt htables)
  | decrypt =>
    obtain ⟨hlen, rfl⟩ | ⟨-, -, rfl⟩ | ⟨info, -, -, hrow, rfl⟩ | ⟨-, -, -, rfl⟩ := execDecrypt_cases h
    · exact invariant_raise hs (faultRecord_invalidLength hlen)
    · exact invariant_skipCommand hs
    · exact invariant_raise hs (faultRecord_of_checkRow (selector s.ec).isLt hrow)
    · exact invariant_executed hs .decrypt (decryptBody_selGroup_lt s)

/-- A host write stores in canonical form, clears the fault with its information, or writes LEN or SEED (R57). -/
theorem hostWrite_keeps_invariant {s : State} (hs : Invariant s) (target : Target) (d : Word) :
    Invariant (s.hostWrite target d) := by
  cases target with
  | storage a => exact ⟨memWrite_wf hs.storage a 4 d, hs.fault, hs.group⟩
  | ctrl =>
    rw [State.hostWrite]
    split
    · exact ⟨hs.storage, .inl ⟨rfl, rfl⟩, hs.group⟩
    · exact hs
  | len | seed => exact ⟨hs.storage, hs.fault, hs.group⟩
  | cmd | status | finfo | ks | csum | sel | reserved => exact hs

/-- Settles O24: the transactions one by one. -/
theorem stepKeepsInvariant : Obligations.StepKeepsInvariant := by
  intro s t hs h
  obtain ⟨-, rfl⟩ | ⟨x, rest, -, hx⟩ := step_cases h
  · exact hs
  have hs' : Invariant { s with script := rest } := ⟨hs.storage, hs.fault, hs.group⟩
  obtain ⟨w, -, -, rfl⟩ | ⟨w, why, -, -, hw, rfl⟩ | ⟨w, i, -, -, hw, hexec⟩ | ⟨slot, d, -, -, rfl⟩ |
    ⟨slot, -, rfl⟩ | ⟨-, rfl⟩ := hx
  · exact ⟨hs.storage, hs.fault, hs.group⟩
  · exact invariant_raise hs' (faultRecord_illegalCommand ((isIllegal_iff_decode w).2 ⟨why, hw⟩))
  · exact exec_keeps_invariant (encodeDecodeRoundTrip w i hw).1 hs' hexec
  · exact hostWrite_keeps_invariant hs' (targetOf slot) d
  · exact ⟨hs.storage, hs.fault, hs.group⟩
  · exact ⟨resetBlock_wf _, .inl ⟨rfl, rfl⟩, resetMeetsInvariant.group⟩

end Sys2Proof.Proofs
end

section
/-!
PROOFS. Reset and the free contents of storage (70_reset_and_hazards.md R260, R262): the reset input, and commands on storage
that has been written, in which no read reaches the free contents (00_scope.md R9).
-/
namespace Sys2Proof.Proofs
open Sys2Proof Sys2Proof.Machine Sys2Proof.Laws

/-- Settles O22: the step is `State.resetBlock`, which leaves storage unwritten under the next reset count. -/
theorem resetInput : Obligations.ResetInput := fun _ _ hs =>
  ⟨_, step_cons hs, rfl, rfl, rfl, rfl, rfl, rfl, rfl, rfl, rfl, rfl, rfl, fun _ => rfl⟩

/-! Written storage stays written, whatever a command stores. -/

theorem storageWritten_of_mem_eq {s t : State} (hs : StorageWritten s) (hmem : t.mem = s.mem) : StorageWritten t := by
  intro a ha
  rw [State.written, hmem]
  exact hs a ha

theorem storageWritten_storeBytes {s : State} (hs : StorageWritten s) (a : Nat) (vs : List Byte) :
    StorageWritten (s.storeBytes a vs) := by
  intro b hb
  rw [State.written, storeBytes_mem, memLookup_memStore]
  by_cases hin : a ≤ b ∧ b < a + vs.length
  · rw [if_pos hin, if_pos hb, List.getElem?_eq_getElem (show b - a < vs.length by omega), Option.isSome_some]
  · rw [if_neg hin]
    exact hs b hb

theorem storageWritten_cryptRegion {s : State} (hs : StorageWritten s) (x : Word) (a b : Nat) :
    StorageWritten (s.cryptRegion x a b).2 := storageWritten_storeBytes hs a _

theorem storageWritten_writeChecksum {s : State} (hs : StorageWritten s) (c : Half) : StorageWritten (s.writeChecksum c) :=
  storageWritten_storeBytes hs 0x6 _

theorem storageWritten_shuffleBody {s : State} (hs : StorageWritten s) (g : Nat) : StorageWritten (s.shuffleBody g) :=
  storageWritten_storeBytes hs 0x8 _

theorem storageWritten_cipherPass {s : State} (hs : StorageWritten s) (x : Word) : StorageWritten (s.cipherPass x).2 := by
  unfold State.cipherPass
  split
  · exact storageWritten_cryptRegion (storageWritten_cryptRegion hs _ _ _) _ _ _
  · exact storageWritten_cryptRegion hs _ _ _

theorem storageWritten_commandBody (i : Instr) {s : State} (hs : StorageWritten s) : StorageWritten (commandBody i s) := by
  cases i <;> simp only [commandBody]
  case nop => exact hs
  case advance | checksum => exact storageWritten_of_mem_eq hs rfl
  case crypt start stop => exact storageWritten_of_mem_eq (storageWritten_cryptRegion hs s.seed start.toNat stop.toNat) rfl
  case shuffle group => exact storageWritten_shuffleBody hs _
  case refresh => exact storageWritten_of_mem_eq (storageWritten_writeChecksum hs s.checksum) rfl
  case encrypt =>
    have hplain := storageWritten_shuffleBody (storageWritten_writeChecksum hs s.checksum)
      (s.bpi (selector s.ec).toNat).toNat
    exact storageWritten_of_mem_eq (storageWritten_cipherPass hplain s.ec) rfl
  case decrypt =>
    have hciphered := storageWritten_cipherPass hs s.ec
    exact storageWritten_of_mem_eq (storageWritten_shuffleBody hciphered (selector s.ec).toNat) rfl

theorem exec_keeps_storageWritten {i : Instr} {s t : State} (hs : StorageWritten s) (h : exec i s = .next t) :
    StorageWritten t := by
  cases exec_ending h with
  | faulted f info => exact storageWritten_of_mem_eq hs rfl
  | skipped hskip => exact storageWritten_of_mem_eq hs rfl
  | executed => exact storageWritten_of_mem_eq (storageWritten_commandBody i hs) rfl

/-! What the shuffle, the row check and the checksum read, byte by byte. -/

theorem row_congr {s t : State} {g : Nat} (h : ∀ k < 4, t.bp (4 * g + k) = s.bp (4 * g + k)) : t.row g = s.row g :=
  List.map_congr_left fun k hk => by rw [h k (List.mem_range.1 hk)]

theorem checkRow_congr {s t : State} {g : Nat} (h : ∀ k < 4, t.bp (4 * g + k) = s.bp (4 * g + k)) :
    t.checkRow g = s.checkRow g := by
  have hfind : (List.range 4).find? (fun k => decide (3 < (t.bp (4 * g + k)).toNat)) =
      (List.range 4).find? (fun k => decide (3 < (s.bp (4 * g + k)).toNat)) :=
    List.find?_congr fun k hk => by rw [h k (List.mem_range.1 hk)]
  rw [State.checkRow, hfind, State.checkRow]
  exact Option.map_congr fun k hk => by rw [h k (List.mem_range.1 (List.mem_of_find?_eq_some hk))]

/-- The sum reads the body, [0x8, 0x148), and no more (R180). -/
theorem checksum_congr_body {s t : State} (h : ∀ a, 0x8 ≤ a → a < 0x148 → t.byte a = s.byte a) :
    t.checksum = s.checksum := by
  rw [checksum_eq_ofNat_bodySum, checksum_eq_ofNat_bodySum, bodySum, bodySum]
  congr 2
  refine List.map_congr_left fun j hj => ?_
  have hj := List.mem_range.1 hj
  rw [h (0x8 + 2 * j) (by omega) (by omega), h (0x8 + 2 * j + 1) (by omega) (by omega)]

/-! The state with other free contents. A byte that has been written reads as before, and so does all that is made of such
bytes. -/

/-- The state with another reset count, the index of its free contents (log entry 2). -/
def recount (s : State) (n : Nat) : State := { s with resets := n }

theorem recount_len (s : State) (n : Nat) : (recount s n).len = s.len := rfl

theorem storeBytes_recount (s : State) (n a : Nat) (vs : List Byte) :
    (recount s n).storeBytes a vs = recount (s.storeBytes a vs) n := rfl

theorem writeChecksum_recount (s : State) (n : Nat) (c : Half) :
    (recount s n).writeChecksum c = recount (s.writeChecksum c) n := rfl

section reads
variable {s : State} (hs : StorageWritten s) (n : Nat)
include hs

theorem byte_recount {a : Nat} (ha : isStorage a = true) : (recount s n).byte a = s.byte a := by
  obtain ⟨v, hv⟩ := Option.isSome_iff_exists.1 (hs a ha)
  have hv' : memLookup (recount s n).mem a = some v := hv
  rw [State.byte, hv', State.byte, hv, Option.getD_some, Option.getD_some]

theorem byte_recount_buf {a : Nat} (ha : a < 0x158) : (recount s n).byte a = s.byte a :=
  byte_recount hs n ((isStorage_iff a).2 (.inl ha))

theorem bp_recount {k : Nat} (hk : k < 0x80) : (recount s n).bp k = s.bp k :=
  byte_recount hs n ((isStorage_iff _).2 (.inr (by omega)))

theorem bpi_recount {k : Nat} (hk : k < 0x20) : (recount s n).bpi k = s.bpi k :=
  byte_recount hs n ((isStorage_iff _).2 (.inr (by omega)))

theorem loadBytes_recount {a k : Nat} (h : a + k ≤ 0x158) : (recount s n).loadBytes a k = s.loadBytes a k :=
  loadBytes_congr a k fun _ _ hb => byte_recount_buf hs n (by omega)

theorem ec_recount : (recount s n).ec = s.ec :=
  memRead_congr 0x0 4 fun _ _ hb => byte_recount_buf hs n (by omega)

theorem encFlag_recount : (recount s n).encFlag = s.encFlag := by
  rw [State.encFlag, byte_recount_buf hs n (by decide), byte_recount_buf hs n (by decide), State.encFlag]

theorem checksum_recount : (recount s n).checksum = s.checksum :=
  checksum_congr_body fun _ _ ha => byte_recount_buf hs n (by omega)

theorem row_recount {g : Nat} (hg : g < 32) : (recount s n).row g = s.row g :=
  row_congr fun _ hk => bp_recount hs n (by omega)

theorem checkRow_recount {g : Nat} (hg : g < 32) : (recount s n).checkRow g = s.checkRow g :=
  checkRow_congr fun _ hk => bp_recount hs n (by omega)

theorem bpi_selector_recount :
    (recount s n).bpi (selector (recount s n).ec).toNat = s.bpi (selector s.ec).toNat := by
  rw [ec_recount hs n, bpi_recount hs n (selector s.ec).isLt]

/-- ENCRYPT looks at a row of BP only when the entry of BPI names one (R211). -/
theorem checkEncryptTables_recount :
    (recount s n).checkEncryptTables (selector (recount s n).ec) = s.checkEncryptTables (selector s.ec) := by
  rw [State.checkEncryptTables, bpi_selector_recount hs n, ec_recount hs n, State.checkEncryptTables]
  by_cases hgroup : 31 < (s.bpi (selector s.ec).toNat).toNat
  · rw [if_pos hgroup, if_pos hgroup]
  · rw [if_neg hgroup, if_neg hgroup, checkRow_recount hs n (by omega)]

end reads

section bodies
variable {s : State} (hs : StorageWritten s) (n : Nat)
include hs

theorem cryptRegion_recount (x : Word) {a b : Nat} (hab : a ≤ b) (hb : b ≤ 0x158) :
    (recount s n).cryptRegion x a b = ((s.cryptRegion x a b).1, recount (s.cryptRegion x a b).2 n) := by
  rw [State.cryptRegion, loadBytes_recount hs n (by omega), storeBytes_recount]
  rfl

theorem cipherPass_recount (x : Word) :
    (recount s n).cipherPass x = ((s.cipherPass x).1, recount (s.cipherPass x).2 n) := by
  have hbody := cryptRegion_recount hs n x (a := 0x8) (b := 0x148) (by decide) (by decide)
  have hextra := cryptRegion_recount (storageWritten_cryptRegion hs x 0x8 0x148) n (s.cryptRegion x 0x8 0x148).1
    (a := 0x148) (b := 0x158) (by decide) (by decide)
  by_cases hlen : s.len = 0x158
  · simp only [State.cipherPass, recount_len, hbody, hextra, hlen, if_true]
  · simp only [State.cipherPass, recount_len, hbody, hlen, if_false]

theorem shuffleBody_recount {g : Nat} (hg : g < 32) :
    (recount s n).shuffleBody g = recount (s.shuffleBody g) n := by
  rw [State.shuffleBody, loadBytes_recount hs n (by decide), row_recount hs n hg, storeBytes_recount]
  rfl

theorem encryptBody_recount (hgroup : (s.bpi (selector s.ec).toNat).toNat < 32) :
    (recount s n).encryptBody = recount s.encryptBody n := by
  have hfield := storageWritten_writeChecksum hs s.checksum
  have hplain := storageWritten_shuffleBody hfield (s.bpi (selector s.ec).toNat).toNat
  simp only [State.encryptBody, ec_recount hs n, bpi_recount hs n (selector s.ec).isLt, checksum_recount hs n,
    writeChecksum_recount, shuffleBody_recount hfield n hgroup, cipherPass_recount hplain n]
  rfl

theorem decryptBody_recount : (recount s n).decryptBody = recount s.decryptBody n := by
  have hcipher := storageWritten_cipherPass hs s.ec
  simp only [State.decryptBody, ec_recount hs n, cipherPass_recount hs n,
    shuffleBody_recount hcipher n (selector s.ec).isLt]
  rfl

end bodies

/-! Command by command, with other free contents. -/

theorem complete_recount (s : State) (n : Nat) : (recount s n).complete = recount s.complete n := rfl

/-- What a command looks at lies in storage, so its checks come out alike, and its body does the same. -/
theorem exec_recount {i : Instr} {s t : State} (n : Nat) (hwf : i.wellFormed = true) (hs : StorageWritten s)
    (h : exec i s = .next t) : exec i (recount s n) = .next (recount t n) := by
  cases i with
  | nop =>
    obtain rfl := execNop_cases h
    rfl
  | advance =>
    obtain rfl := execAdvance_cases h
    rfl
  | crypt start stop =>
    obtain ⟨hlen, rfl⟩ | ⟨hlen, hrange, rfl⟩ | ⟨hlen, hstart, hstop, hodd, rfl⟩ | ⟨hlen, hstart, hstop, heven, rfl⟩ :=
      execCrypt_cases h
    · exact exec_invalidLength (s := recount s n) nofun nofun hlen
    · exact exec_crypt_indexOutOfRange (s := recount s n) hlen hrange
    · exact exec_crypt_oddRegion (s := recount s n) hlen hstart hstop (Nat.mod_two_ne_zero.1 hodd)
    · have hbuf : stop.toNat ≤ 0x158 := Nat.le_trans hstop ((len_toNat_eq_cend hlen).trans_le (cend_bounds s).2)
      rw [exec_crypt_executed (s := recount s n) hlen hstart hstop heven, commandBody,
        cryptRegion_recount hs n _ hstart hbuf]
      rfl
  | shuffle group =>
    have hgroup : group.toNat < 32 := by simpa [Instr.wellFormed] using hwf
    have hcheck := checkRow_recount hs n hgroup
    obtain ⟨hlen, rfl⟩ | ⟨info, hlen, hrow, rfl⟩ | ⟨hlen, hrow, rfl⟩ := execShuffle_cases h
    · exact exec_invalidLength (s := recount s n) nofun nofun hlen
    · exact exec_shuffle_badTableEntry (s := recount s n) hlen (hcheck.trans hrow)
    · rw [exec_shuffle_executed (s := recount s n) hlen (hcheck.trans hrow), commandBody,
        shuffleBody_recount hs n hgroup, complete_recount]
  | checksum =>
    obtain ⟨hlen, rfl⟩ | ⟨hlen, rfl⟩ := execChecksum_cases h
    · exact exec_invalidLength (s := recount s n) nofun nofun hlen
    · rw [exec_checksum_executed (s := recount s n) hlen, commandBody, checksum_recount hs n]
      rfl
  | refresh =>
    obtain ⟨hlen, rfl⟩ | ⟨hlen, rfl⟩ := execRefresh_cases h
    · exact exec_invalidLength (s := recount s n) nofun nofun hlen
    · rw [exec_refresh_executed (s := recount s n) hlen, commandBody, checksum_recount hs n, writeChecksum_recount]
      rfl
  | encrypt =>
    have hflag := encFlag_recount hs n
    have hcheck := checkEncryptTables_recount hs n
    obtain ⟨hlen, rfl⟩ | ⟨hlen, henc, rfl⟩ | ⟨info, hlen, henc, htables, rfl⟩ | ⟨hlen, henc, htables, rfl⟩ :=
      execEncrypt_cases h
    · exact exec_invalidLength (s := recount s n) nofun nofun hlen
    · exact exec_encrypt_skipped (s := recount s n) hlen (hflag.trans henc)
    · exact exec_encrypt_badTableEntry (s := recount s n) hlen (hflag.trans henc) (hcheck.trans htables)
    · have hgroup := Nat.lt_succ_of_le ((checkEncryptTables_eq_none_iff s _).1 htables).1
      rw [exec_encrypt_executed (s := recount s n) hlen (hflag.trans henc) (hcheck.trans htables), commandBody,
        encryptBody_recount hs n hgroup, complete_recount]
  | decrypt =>
    have hflag := encFlag_recount hs n
    have hcheck : (recount s n).checkRow (selector (recount s n).ec).toNat = s.checkRow (selector s.ec).toNat := by
      rw [ec_recount hs n, checkRow_recount hs n (selector s.ec).isLt]
    obtain ⟨hlen, rfl⟩ | ⟨hlen, henc, rfl⟩ | ⟨info, hlen, henc, hrow, rfl⟩ | ⟨hlen, henc, hrow, rfl⟩ :=
      execDecrypt_cases h
    · exact exec_invalidLength (s := recount s n) nofun nofun hlen
    · exact exec_decrypt_skipped (s := recount s n) hlen (hflag.trans henc)
    · exact exec_decrypt_badTableEntry (s := recount s n) hlen (hflag.trans henc) (hcheck.trans hrow)
    · rw [exec_decrypt_executed (s := recount s n) hlen (hflag.trans henc) (hcheck.trans hrow), commandBody,
        decryptBody_recount hs n, complete_recount]

/-- Settles O30: a well-formed command reads storage bytes only, and all of them are written, so the free contents enter
neither its checks nor its body. -/
theorem freeContentsDoNotMatterOnceWritten : Obligations.FreeContentsDoNotMatterOnceWritten := by
  intro i s n hwf hs
  obtain ⟨t, h⟩ := exec_answers_next i s
  exact ⟨t, h, exec_keeps_storageWritten hs h, exec_recount n hwf hs h⟩

end Sys2Proof.Proofs
end
